-- ==== Sys2Proof/Word.lean ====
section
/-! DEFINITION. The two bit-vector widths of the host bus (spec/00_scope.md R8, spec/20_memory.md R70, R71). -/

namespace Sys2Proof

/-- A 32-bit bus word (R8, R11: bit 0 is the least significant). -/
abbrev Word := BitVec 32

/-- A byte address of the 256-byte register window (R8, R70). -/
abbrev Addr := BitVec 8

end Sys2Proof
end

