-- ==== Sys2Proof/Syntax.lean ====
section
/-! DEFINITION. The seven commands of spec/30_encoding.md R103 and spec/opcode_table.json. -/

namespace Sys2Proof

/-- The commands. A command has no operand: it reads and writes the fixed registers its rule names (R101, R104). -/
inductive Instr where
  /-- R200. -/
  | nop
  /-- R161. -/
  | tick
  /-- R181. -/
  | armBegin
  /-- R184. -/
  | armStep
  /-- R202. -/
  | stopSet
  /-- R203. -/
  | stopClr
  /-- R204. -/
  | errClr
deriving DecidableEq, Repr

end Sys2Proof
end

