-- ==== Sys2Proof/Decode.lean ====
section
/-! DEFINITION. The command decoder of spec/30_encoding.md R102, total on every 32-bit word, and the encoder. -/

namespace Sys2Proof

/-- Why a command word is illegal (R105). There is no reserved-but-legal word and no hint. -/
inductive IllegalWord where
  /-- w[31:8] ≠ 0, whatever w[7:0] holds. -/
  | reservedBits
  /-- w[31:8] = 0 and w[7:0] is 0x07 to 0xFF. -/
  | unknownOpcode
deriving DecidableEq, Repr

/-- What the decoder reads from a word. -/
inductive Decoded where
  | command (i : Instr)
  | illegal (why : IllegalWord)
deriving DecidableEq, Repr

/-- R101: OPC, bits [7:0]. -/
def opcodeField (w : Word) : BitVec 8 := w.extractLsb' 0 8

/-- R101: RSV, bits [31:8]. -/
def reservedField (w : Word) : BitVec 24 := w.extractLsb' 8 24

/-- R103: the opcode map, by opcode. -/
def commandOfOpcode (opc : BitVec 8) : Option Instr :=
  match opc.toNat with
  | 0x00 => some .nop
  | 0x01 => some .tick
  | 0x02 => some .armBegin
  | 0x03 => some .armStep
  | 0x04 => some .stopSet
  | 0x05 => some .stopClr
  | 0x06 => some .errClr
  | _    => none

/-- R102: the decoder. The reserved field is tested first; MODE is not read. -/
def decode (w : Word) : Decoded :=
  if reservedField w ≠ 0 then .illegal .reservedBits
  else match commandOfOpcode (opcodeField w) with
    | some i => .command i
    | none   => .illegal .unknownOpcode

/-- R103: the opcode of each command. -/
def opcode : Instr → BitVec 8
  | .nop      => 0x00
  | .tick     => 0x01
  | .armBegin => 0x02
  | .armStep  => 0x03
  | .stopSet  => 0x04
  | .stopClr  => 0x05
  | .errClr   => 0x06

/-- R101, R103: the one command word of a command, RSV zero above OPC. -/
def encode (i : Instr) : Word := (0 : BitVec 24) ++ opcode i

/-- The `nbits` low bits of `w` as one command word (R100: a command is one 32-bit word; R72: byte order does not
arise, so the table's bit numbering is the word's own). -/
def tableWord (nbits w : Nat) : Word := BitVec.ofNat 32 (w % 2 ^ nbits)

/-- The instruction the decoder reads from a row of spec/opcode_table.json. PIDMIX has no command longer than 32
bits (R101, R106), so a longer one is refused (assumption 15). -/
def decodeTableWord (nbits w : Nat) : Option Instr :=
  if 32 < nbits then none
  else match decode (tableWord nbits w) with
    | .command i => some i
    | .illegal _ => none

end Sys2Proof
end

