-- ==== Sys2Proof/Machine/State.lean ====
section
/-! DEFINITION. The architectural state of PIDMIX (spec/10_state.md), the names of its registers, the host's actions,
and the reasons a step can stop. -/

namespace Sys2Proof.Machine

/-- R7: the controlled axes, indexed 0, 1, 2. -/
inductive Axis where
  | roll
  | pitch
  | yaw
deriving DecidableEq, Repr

/-- R7: the motors A, B, C, D, on actuator channels 0, 1, 2, 3. -/
inductive Motor where
  | a
  | b
  | c
  | d
deriving DecidableEq, Repr

/-- R26: STATUS.MODE. The value 3 is never held (assumption 7). -/
inductive Mode where
  | idle
  | arming
  | armed
deriving DecidableEq, Repr

/-- R220: the error causes. Codes 8 to 15 are never recorded (assumption 7). -/
inductive ErrorCause where
  | none
  | cmdUnknown
  | cmdReserved
  | cmdMode
  | cfgLocked
  | busMisaligned
  | busReadonly
  | busReserved
deriving DecidableEq, Repr

/-- R23: the 49 named registers of the window. -/
inductive Reg where
  | cmd
  | status
  | errInfo
  | throttle
  | sp (a : Axis)
  | meas (a : Axis)
  | kp (a : Axis)
  | ki (a : Axis)
  | kd (a : Axis)
  | maxi (a : Axis)
  | iscale
  | pscale
  | thrGain
  | mixSign
  | offset (m : Motor)
  | minPulse
  | maxPulse
  | armPulse
  | armRampStep
  | armThresh
  | integ (a : Axis)
  | ramp
  | lastErr (a : Axis)
  | pidOut (a : Axis)
  | out (m : Motor)
deriving DecidableEq, Repr

/-- R23: the access column. -/
inductive Access where
  /-- `W`, write-only. -/
  | writeOnly
  /-- `R`, read-only. -/
  | readOnly
  /-- `RW`, read-write in every mode. -/
  | readWrite
  /-- `RWC`, read-write, configuration-locked outside Idle (R45). -/
  | config
deriving DecidableEq, Repr

/-- R54: one event `setPulseWidth(ch, v)` of the actuator port. -/
@[ext]
structure Event where
  ch : Fin 4
  v  : BitVec 16
deriving DecidableEq, Repr

/-- R71: the two bus transactions. Only size 4 exists, so no size is written. -/
inductive Transaction where
  | read (addr : Addr)
  | write (addr : Addr) (w : Word)
deriving DecidableEq, Repr

/-- R263: what the host can do to the block, one action at a time (assumption 1). -/
inductive HostAction where
  /-- A completed bus transaction. -/
  | bus (t : Transaction)
  /-- The reset input, asserted between transactions (`none`) or while a transaction is in progress (R251). -/
  | reset (interrupted : Option Transaction)
  /-- Power-down followed by power-up (R234, R250). -/
  | powerUp
deriving DecidableEq, Repr

/-- The registers of one axis: R31 (sp), R32 (meas), R33 (kp, ki, kd), R34 (maxi), R46 (integ), R47 (lastErr),
R48 (pidOut). Signed fields are two's-complement patterns of the stored width (R8, R12). -/
@[ext]
structure AxisRegs where
  sp      : BitVec 24
  meas    : BitVec 24
  kp      : BitVec 16
  ki      : BitVec 16
  kd      : BitVec 16
  maxi    : BitVec 31
  integ   : BitVec 32
  lastErr : BitVec 32
  pidOut  : BitVec 32
deriving DecidableEq, Repr

/-- The registers of one motor: R40 (offset), R50 (out). -/
@[ext]
structure MotorRegs where
  offset : BitVec 16
  out    : BitVec 16
deriving DecidableEq, Repr

/-- R20: the register file of R23 and the actuator port's output sequence, with the two fields of the model's own
that hold the host's side of the bus: `pending` (assumption 1) and `answers` (assumption 3). -/
@[ext]
structure State where
  /-- STATUS.MODE, R26. -/
  mode : Mode
  /-- STATUS.STOP, R27. -/
  stop : Bool
  /-- STATUS.ERR_CMD, R28. -/
  errCmd : Bool
  /-- STATUS.ERR_CFG, R28. -/
  errCfg : Bool
  /-- STATUS.ERR_BUS, R28. -/
  errBus : Bool
  /-- STATUS.ERR_CAUSE, R28, R220. -/
  errCause : ErrorCause
  /-- ERR_INFO, R29. -/
  errInfo : Word
  /-- THROTTLE, an integer in [0, 1000], R30. -/
  throttle : Fin 1001
  roll : AxisRegs
  pitch : AxisRegs
  yaw : AxisRegs
  /-- ISCALE, R35. -/
  iscale : BitVec 16
  /-- PSCALE, R36. -/
  pscale : BitVec 16
  /-- THR_GAIN, R37. -/
  thrGain : BitVec 16
  /-- MIXSIGN, R38. -/
  mixSign : BitVec 12
  motorA : MotorRegs
  motorB : MotorRegs
  motorC : MotorRegs
  motorD : MotorRegs
  /-- MIN_PULSE, R41. -/
  minPulse : BitVec 16
  /-- MAX_PULSE, R41. -/
  maxPulse : BitVec 16
  /-- ARM_PULSE, R42. -/
  armPulse : BitVec 16
  /-- ARM_RAMP_STEP, R42. -/
  armRampStep : BitVec 16
  /-- ARM_THRESH, R43. -/
  armThresh : BitVec 24
  /-- RAMP, R49. -/
  ramp : BitVec 16
  /-- The actuator port, oldest event first, R54. -/
  events : List Event
  /-- The host actions the block has not been given yet, next one first. The model's own. -/
  pending : List HostAction
  /-- The words bus reads have returned, oldest first. The model's own. -/
  answers : List Word
deriving DecidableEq, Repr

/-- The reasons a step can fault: none. Errors of PIDMIX never trap and never stop it (R226), and a run does not end
(R264), so nothing raises a fault (assumption 11). -/
inductive Fault where
deriving DecidableEq, Repr

/-- The reasons a step can be refused. -/
inductive Refusal where
  /-- Raised by `exec` for an instruction that has no meaning yet: no arm does so. Safe. -/
  | notModelled (mnemonic : String)
deriving DecidableEq, Repr

/-- R250: an axis at reset. -/
def AxisRegs.reset : AxisRegs where
  sp := 0
  meas := 0
  kp := 0
  ki := 0
  kd := 0
  maxi := 0
  integ := 0
  lastErr := 0
  pidOut := 0

/-- R250: a motor at reset. -/
def MotorRegs.reset : MotorRegs where
  offset := 0
  out := 0

/-- R23, R250: the block right after reset, with no event emitted, no host action waiting and nothing read. -/
def State.reset : State where
  mode := .idle
  stop := false
  errCmd := false
  errCfg := false
  errBus := false
  errCause := .none
  errInfo := 0
  throttle := 0
  roll := AxisRegs.reset
  pitch := AxisRegs.reset
  yaw := AxisRegs.reset
  iscale := 1
  pscale := 1
  thrGain := 0
  mixSign := 0x7A8
  motorA := MotorRegs.reset
  motorB := MotorRegs.reset
  motorC := MotorRegs.reset
  motorD := MotorRegs.reset
  minPulse := 0
  maxPulse := 0
  armPulse := 0
  armRampStep := 0
  armThresh := 0
  ramp := 0
  events := []
  pending := []
  answers := []

end Sys2Proof.Machine
end

