-- ==== Sys2Proof/Machine/Flags.lean ====
section
/-! DEFINITION. The fields of STATUS (spec/10_state.md R25 to R28, R52) and the error classes and codes
(spec/60_exceptions.md R220, R221). No arithmetic result sets a flag (R52). -/

namespace Sys2Proof.Machine

/-- R26: the two bits MODE reads as. -/
def modeCode : Mode → BitVec 2
  | .idle   => 0
  | .arming => 1
  | .armed  => 2

/-- R220: the four bits ERR_CAUSE reads as. -/
def causeCode : ErrorCause → BitVec 4
  | .none          => 0
  | .cmdUnknown    => 1
  | .cmdReserved   => 2
  | .cmdMode       => 3
  | .cfgLocked     => 4
  | .busMisaligned => 5
  | .busReadonly   => 6
  | .busReserved   => 7

/-- R221: the causes whose class bit is ERR_CMD, codes 1 to 3. -/
def isCmdClass : ErrorCause → Bool
  | .cmdUnknown | .cmdReserved | .cmdMode => true
  | .none | .cfgLocked | .busMisaligned | .busReadonly | .busReserved => false

/-- R221: the cause whose class bit is ERR_CFG, code 4. -/
def isCfgClass : ErrorCause → Bool
  | .cfgLocked => true
  | .none | .cmdUnknown | .cmdReserved | .cmdMode | .busMisaligned | .busReadonly | .busReserved => false

/-- R221: the causes whose class bit is ERR_BUS, codes 5 to 7. -/
def isBusClass : ErrorCause → Bool
  | .busMisaligned | .busReadonly | .busReserved => true
  | .none | .cmdUnknown | .cmdReserved | .cmdMode | .cfgLocked => false

/-- R25: the STATUS word. From the top: bits [31:12] reserved, ERR_CAUSE [11:8], bit 7 reserved, ERR_BUS, ERR_CFG,
ERR_CMD, bit 3 reserved, STOP, MODE [1:0]. -/
def statusWord (s : State) : Word :=
  (0 : BitVec 20) ++ causeCode s.errCause ++ (0 : BitVec 1) ++ BitVec.ofBool s.errBus ++ BitVec.ofBool s.errCfg
    ++ BitVec.ofBool s.errCmd ++ (0 : BitVec 1) ++ BitVec.ofBool s.stop ++ modeCode s.mode

end Sys2Proof.Machine
end

