-- ==== Sys2Proof/Machine/Ops.lean ====
section
/-! DEFINITION. The shared operations: integer primitives (spec/00_scope.md R12 to R15), register accessors by axis
and motor, the error procedure (spec/60_exceptions.md R225), the actuator port (spec/10_state.md R54), reset
(spec/70_reset_and_hazards.md R250). -/

namespace Sys2Proof.Machine

/-- R12: the two's-complement pattern of an integer. -/
def word32 (v : Int) : Word := BitVec.ofInt 32 v

/-- R14: the quotient truncated toward zero. The rules divide only by ISCALE and PSCALE, which are at least 1 (R44);
what Lean's quotient answers for 0 is assumption 6. -/
def tdiv (a b : Int) : Int := Int.tdiv a b

/-- R15: lower bound first, upper bound second, so the upper bound wins when they cross. -/
def clamp (v lo hi : Int) : Int := min (max v lo) hi

/-- R15: saturation to 32-bit signed. -/
def sat32 (v : Int) : Int := clamp v (-2 ^ 31) (2 ^ 31 - 1)

/-- R7: the index of an axis. -/
def axisIndex : Axis → Nat
  | .roll  => 0
  | .pitch => 1
  | .yaw   => 2

/-- R7: the index of a motor. -/
def motorIndex : Motor → Nat
  | .a => 0
  | .b => 1
  | .c => 2
  | .d => 3

/-- R7: the actuator channel a motor is driven on. -/
def channel : Motor → Fin 4
  | .a => 0
  | .b => 1
  | .c => 2
  | .d => 3

/-- The registers of an axis. -/
def axisOf (s : State) : Axis → AxisRegs
  | .roll  => s.roll
  | .pitch => s.pitch
  | .yaw   => s.yaw

/-- Replaces the registers of an axis. -/
def setAxis (a : Axis) (x : AxisRegs) (s : State) : State :=
  match a with
  | .roll  => { s with roll := x }
  | .pitch => { s with pitch := x }
  | .yaw   => { s with yaw := x }

/-- The registers of a motor. -/
def motorOf (s : State) : Motor → MotorRegs
  | .a => s.motorA
  | .b => s.motorB
  | .c => s.motorC
  | .d => s.motorD

/-- Replaces the registers of a motor. -/
def setMotor (m : Motor) (x : MotorRegs) (s : State) : State :=
  match m with
  | .a => { s with motorA := x }
  | .b => { s with motorB := x }
  | .c => { s with motorC := x }
  | .d => { s with motorD := x }

/-- R225: `raise Error(cause, info)`. The class bit of the cause is set; cause and info are recorded only when no
error is on record. PIDMIX takes no trap (R226): this is the whole of what an error does. -/
def raiseError (cause : ErrorCause) (info : Word) (s : State) : State :=
  { s with
    errCmd   := s.errCmd || isCmdClass cause
    errCfg   := s.errCfg || isCfgClass cause
    errBus   := s.errBus || isBusClass cause
    errCause := if s.errCause = .none then cause else s.errCause
    errInfo  := if s.errCause = .none then info else s.errInfo }

/-- R204, R227: clears the error record. There is no trap return; this is what re-enables first-error capture. -/
def clearErrors (s : State) : State :=
  { s with errCmd := false, errCfg := false, errBus := false, errCause := .none, errInfo := 0 }

/-- R54, R162: the four events of one frame, channels 0, 1, 2, 3 in that order. -/
def frame (p : Motor → BitVec 16) : List Event :=
  [⟨channel .a, p .a⟩, ⟨channel .b, p .b⟩, ⟨channel .c, p .c⟩, ⟨channel .d, p .d⟩]

/-- R54: writes OUT_m and appends the frame with the same values. -/
def emitFrame (p : Motor → BitVec 16) (s : State) : State :=
  { s with
    motorA := { s.motorA with out := p .a }
    motorB := { s.motorB with out := p .b }
    motorC := { s.motorC with out := p .c }
    motorD := { s.motorD with out := p .d }
    events := s.events ++ frame p }

/-- R250: every register at its reset value. Reset appends no event, so the port's sequence stays (assumption 9), and
the host's side of the bus is not the block's. -/
def resetBlock (s : State) : State :=
  { State.reset with events := s.events, pending := s.pending, answers := s.answers }

end Sys2Proof.Machine
end

