-- ==== Sys2Proof/Machine/Pid.lean ====
section
/-! DEFINITION. The PID phase of TICK, spec/40_pid.md R120 to R127. All arithmetic is exact on Int (R13, R16). -/

namespace Sys2Proof.Machine

/-- R122: e_a = MEAS_a - SP_a. The yaw error is not wrapped (R130). -/
def pidError (s : State) (a : Axis) : Int := (axisOf s a).meas.toInt - (axisOf s a).sp.toInt

/-- R123, R129: the error is divided by the shared ISCALE before it is added. -/
def pidAccumulated (s : State) (a : Axis) : Int :=
  (axisOf s a).integ.toInt + tdiv (pidError s a) s.iscale.toNat

/-- R124: the anti-windup clamp to ±MAXI_a. -/
def pidIntegral (s : State) (a : Axis) : Int :=
  clamp (pidAccumulated s a) (-(axisOf s a).maxi.toNat) (axisOf s a).maxi.toNat

/-- R125: the derivative against the LASTERR_a from before this TICK. -/
def pidDerivative (s : State) (a : Axis) : Int := pidError s a - (axisOf s a).lastErr.toInt

/-- R126: S_a, with the clamped integral. -/
def pidSum (s : State) (a : Axis) : Int :=
  (axisOf s a).kp.toInt * pidError s a + (axisOf s a).ki.toInt * pidIntegral s a
    + (axisOf s a).kd.toInt * pidDerivative s a

/-- R126: the exact output u_a. -/
def pidOutput (s : State) (a : Axis) : Int := -tdiv (pidSum s a) s.pscale.toNat

/-- R127: the registers PID_AXIS(a) leaves on its axis. -/
def pidAxisRegs (s : State) (a : Axis) : AxisRegs :=
  { axisOf s a with
    integ   := word32 (pidIntegral s a)
    lastErr := word32 (pidError s a)
    pidOut  := word32 (sat32 (pidOutput s a)) }

/-- R127: PID_AXIS(a) on its own. -/
def pidAxis (a : Axis) (s : State) : State := setAxis a (pidAxisRegs s a) s

/-- R120: the three axes, each from the registers before the TICK. It does not read STOP (R133). -/
def pidPhase (s : State) : State :=
  { s with roll := pidAxisRegs s .roll, pitch := pidAxisRegs s .pitch, yaw := pidAxisRegs s .yaw }

end Sys2Proof.Machine
end

