-- ==== Sys2Proof/Machine/Mixer.lean ====
section
/-! DEFINITION. The mixer phase and the TICK command, spec/41_mixer.md R150 to R162. -/

namespace Sys2Proof.Machine

/-- R152: T, the throttle term. The product is divided. -/
def baseThrottle (s : State) : Int := tdiv (s.throttle.val * s.thrGain.toNat) s.pscale.toNat

/-- R153: the sign of axis a on motor m, from MIXSIGN bit 3*m + a. -/
def mixSgn (s : State) (m : Motor) (a : Axis) : Int :=
  if s.mixSign.getLsbD (3 * motorIndex m + axisIndex a) then -1 else 1

/-- R154: the mix of the exact PID outputs, with base_m of R152. -/
def mix (s : State) (m : Motor) : Int :=
  baseThrottle s + (motorOf s m).offset.toInt
    + mixSgn s m .roll * pidOutput s .roll
    + mixSgn s m .pitch * pidOutput s .pitch
    + mixSgn s m .yaw * pidOutput s .yaw

/-- R156: the safety clamp. -/
def clampedMix (s : State) (m : Motor) : Int := clamp (mix s m) s.minPulse.toNat s.maxPulse.toNat

/-- R160: the pulse width p_m, with the stop override. -/
def tickPulse (s : State) (m : Motor) : BitVec 16 :=
  if s.stop then s.minPulse else BitVec.ofInt 16 (clampedMix s m)

/-- R161: TICK. The frame is emitted last, from values all computed before (R162). -/
def execTick (s : State) : Host.Outcome State Fault Refusal :=
  match s.mode with
  | .armed => .next (emitFrame (tickPulse s) (pidPhase s))
  | .idle | .arming => .next (raiseError .cmdMode (encode .tick) s)

end Sys2Proof.Machine
end

