-- ==== Sys2Proof/Machine/Arming.lean ====
section
/-! DEFINITION. ARM_BEGIN and ARM_STEP, spec/42_arming.md R180 to R185. -/

namespace Sys2Proof.Machine

/-- R181: the ramp's start, the throttle-derived value T of R152 lowered to ARM_PULSE. -/
def rampStart (s : State) : BitVec 16 := BitVec.ofInt 16 (min (baseThrottle s) s.armPulse.toNat)

/-- R181 to R183: ARM_BEGIN. -/
def execArmBegin (s : State) : Host.Outcome State Fault Refusal :=
  match s.mode with
  | .idle   => .next { s with ramp := rampStart s, mode := .arming }
  | .arming => .next s
  | .armed  => .next (raiseError .cmdMode (encode .armBegin) s)

/-- R185: the value one arming pass drives on all four channels. -/
def rampPulse (s : State) : BitVec 16 := BitVec.ofNat 16 (min s.ramp.toNat s.maxPulse.toNat)

/-- R185: the ramp after one arming pass. -/
def rampNext (s : State) : BitVec 16 :=
  BitVec.ofNat 16 (min (s.ramp.toNat + s.armRampStep.toNat) s.armPulse.toNat)

/-- R185: RAMP_OUTPUT_STEP. The frame is emitted before the ramp advances; STOP is not read (R186). -/
def rampOutputStep (s : State) : State :=
  { emitFrame (fun _ => rampPulse s) s with ramp := rampNext s }

/-- R184: the exit condition, strict, on the roll setpoint alone. -/
def armExit (s : State) : Bool := decide (s.armThresh.toNat < s.roll.sp.toInt.natAbs)

/-- R184: ARM_STEP. The exit test comes first, and the exit step emits nothing. -/
def execArmStep (s : State) : Host.Outcome State Fault Refusal :=
  match s.mode with
  | .arming =>
    if armExit s then .next { s with throttle := 0, mode := .armed }
    else .next (rampOutputStep s)
  | .idle | .armed => .next (raiseError .cmdMode (encode .armStep) s)

end Sys2Proof.Machine
end

