-- ==== Sys2Proof/Machine/Control.lean ====
section
/-! DEFINITION. NOP, STOP_SET, STOP_CLR and ERR_CLR, spec/43_control.md R200 to R204. -/

namespace Sys2Proof.Machine

/-- R200: NOP. -/
def execNop (s : State) : Host.Outcome State Fault Refusal := .next s

/-- R202: STOP_SET. -/
def execStopSet (s : State) : Host.Outcome State Fault Refusal := .next { s with stop := true }

/-- R203: STOP_CLR. -/
def execStopClr (s : State) : Host.Outcome State Fault Refusal := .next { s with stop := false }

/-- R204: ERR_CLR. -/
def execErrClr (s : State) : Host.Outcome State Fault Refusal := .next (clearErrors s)

end Sys2Proof.Machine
end

