-- ==== Sys2Proof/Machine/Dispatch.lean ====
section
/-! DEFINITION. One arm per command, each a direct call of its meaning. -/

namespace Sys2Proof.Machine

def exec (i : Instr) (s : State) : Host.Outcome State Fault Refusal :=
  match i with
  | .nop => Sys2Proof.Machine.execNop s
  | .tick => Sys2Proof.Machine.execTick s
  | .armBegin => Sys2Proof.Machine.execArmBegin s
  | .armStep => Sys2Proof.Machine.execArmStep s
  | .stopSet => Sys2Proof.Machine.execStopSet s
  | .stopClr => Sys2Proof.Machine.execStopClr s
  | .errClr => Sys2Proof.Machine.execErrClr s

end Sys2Proof.Machine
end

