-- ==== Sys2Proof/Machine/Operands.lean ====
section
/-! DEFINITION. The operand forms of PIDMIX (spec/30_encoding.md R104): the WARL write rule and the read form of every
register (spec/10_state.md R24 to R50). -/

namespace Sys2Proof.Machine

/-- R30: THROTTLE stores `clamp(sint32(w), 0, 1000)`. -/
def warlThrottle (w : Word) : Fin 1001 := Fin.ofNat 1001 (clamp w.toInt 0 1000).toNat

/-- R31, R32: an angle stores w[23:0], read as signed. Yaw is not held to [0, 360000) (R10). -/
def warlAngle (w : Word) : BitVec 24 := w.extractLsb' 0 24

/-- R33, R40: a gain or an offset stores w[15:0], read as signed. -/
def warlSigned16 (w : Word) : BitVec 16 := w.extractLsb' 0 16

/-- R34: MAXI stores w if w[31] = 0 and 0 otherwise. -/
def warlMaxI (w : Word) : BitVec 31 := if w.getLsbD 31 then 0 else w.extractLsb' 0 31

/-- R35, R36: a divisor stores w[15:0], with 0 stored as 1. -/
def warlDivisor (w : Word) : BitVec 16 :=
  if w.extractLsb' 0 16 = 0 then 1 else w.extractLsb' 0 16

/-- R37, R41, R42: THR_GAIN and the pulse registers store w[15:0]. -/
def warlUnsigned16 (w : Word) : BitVec 16 := w.extractLsb' 0 16

/-- R38: MIXSIGN stores w[11:0]. -/
def warlMixSign (w : Word) : BitVec 12 := w.extractLsb' 0 12

/-- R43: ARM_THRESH stores w[23:0]. -/
def warlThresh (w : Word) : BitVec 24 := w.extractLsb' 0 24

/-- `x[slot] <- warl(slot, w)` of R75, for the registers with access RW or RWC. CMD holds no state (R24) and the
read-only registers take no bus write (R77), so those are left alone here. -/
def storeReg (r : Reg) (w : Word) (s : State) : State :=
  match r with
  | .cmd | .status | .errInfo | .integ _ | .ramp | .lastErr _ | .pidOut _ | .out _ => s
  | .throttle    => { s with throttle := warlThrottle w }
  | .sp a        => setAxis a { axisOf s a with sp := warlAngle w } s
  | .meas a      => setAxis a { axisOf s a with meas := warlAngle w } s
  | .kp a        => setAxis a { axisOf s a with kp := warlSigned16 w } s
  | .ki a        => setAxis a { axisOf s a with ki := warlSigned16 w } s
  | .kd a        => setAxis a { axisOf s a with kd := warlSigned16 w } s
  | .maxi a      => setAxis a { axisOf s a with maxi := warlMaxI w } s
  | .iscale      => { s with iscale := warlDivisor w }
  | .pscale      => { s with pscale := warlDivisor w }
  | .thrGain     => { s with thrGain := warlUnsigned16 w }
  | .mixSign     => { s with mixSign := warlMixSign w }
  | .offset m    => setMotor m { motorOf s m with offset := warlSigned16 w } s
  | .minPulse    => { s with minPulse := warlUnsigned16 w }
  | .maxPulse    => { s with maxPulse := warlUnsigned16 w }
  | .armPulse    => { s with armPulse := warlUnsigned16 w }
  | .armRampStep => { s with armRampStep := warlUnsigned16 w }
  | .armThresh   => { s with armThresh := warlThresh w }

/-- `readvalue(slot)` of R74: the read form in each register's rule, sign-extended for the signed registers and
zero-extended for the others. CMD reads 0 (R24). -/
def readReg (r : Reg) (s : State) : Word :=
  match r with
  | .cmd         => 0
  | .status      => statusWord s
  | .errInfo     => s.errInfo
  | .throttle    => BitVec.ofNat 32 s.throttle.val
  | .sp a        => (axisOf s a).sp.signExtend 32
  | .meas a      => (axisOf s a).meas.signExtend 32
  | .kp a        => (axisOf s a).kp.signExtend 32
  | .ki a        => (axisOf s a).ki.signExtend 32
  | .kd a        => (axisOf s a).kd.signExtend 32
  | .maxi a      => (axisOf s a).maxi.setWidth 32
  | .iscale      => s.iscale.setWidth 32
  | .pscale      => s.pscale.setWidth 32
  | .thrGain     => s.thrGain.setWidth 32
  | .mixSign     => s.mixSign.setWidth 32
  | .offset m    => (motorOf s m).offset.signExtend 32
  | .minPulse    => s.minPulse.setWidth 32
  | .maxPulse    => s.maxPulse.setWidth 32
  | .armPulse    => s.armPulse.setWidth 32
  | .armRampStep => s.armRampStep.setWidth 32
  | .armThresh   => s.armThresh.setWidth 32
  | .integ a     => (axisOf s a).integ
  | .ramp        => s.ramp.setWidth 32
  | .lastErr a   => (axisOf s a).lastErr
  | .pidOut a    => (axisOf s a).pidOut
  | .out m       => (motorOf s m).out.setWidth 32

end Sys2Proof.Machine
end

