-- ==== Sys2Proof/Machine/Window.lean ====
section
/-! DEFINITION. The register window of spec/10_state.md R23 and spec/20_memory.md R70: which slot an address names,
which access it has, and MemRead (R74). -/

namespace Sys2Proof.Machine

/-- R23, offsets 0x00 to 0x2C: control, status and inputs. -/
def inputSlots : List (Addr × Reg) :=
  [(0x00, .cmd), (0x04, .status), (0x08, .errInfo), (0x0C, .throttle),
   (0x10, .sp .roll), (0x14, .sp .pitch), (0x18, .sp .yaw),
   (0x20, .meas .roll), (0x24, .meas .pitch), (0x28, .meas .yaw)]

/-- R23, offsets 0x30 to 0x5C: gains and integral bounds. -/
def gainSlots : List (Addr × Reg) :=
  [(0x30, .kp .roll), (0x34, .ki .roll), (0x38, .kd .roll), (0x3C, .maxi .roll),
   (0x40, .kp .pitch), (0x44, .ki .pitch), (0x48, .kd .pitch), (0x4C, .maxi .pitch),
   (0x50, .kp .yaw), (0x54, .ki .yaw), (0x58, .kd .yaw), (0x5C, .maxi .yaw)]

/-- R23, offsets 0x60 to 0x90: the shared configuration. -/
def configSlots : List (Addr × Reg) :=
  [(0x60, .iscale), (0x64, .pscale), (0x68, .thrGain), (0x6C, .mixSign),
   (0x70, .offset .a), (0x74, .offset .b), (0x78, .offset .c), (0x7C, .offset .d),
   (0x80, .minPulse), (0x84, .maxPulse), (0x88, .armPulse), (0x8C, .armRampStep), (0x90, .armThresh)]

/-- R23, offsets 0xA0 to 0xDC: controller state and outputs. -/
def outputSlots : List (Addr × Reg) :=
  [(0xA0, .integ .roll), (0xA4, .integ .pitch), (0xA8, .integ .yaw), (0xAC, .ramp),
   (0xB0, .lastErr .roll), (0xB4, .lastErr .pitch), (0xB8, .lastErr .yaw),
   (0xC0, .pidOut .roll), (0xC4, .pidOut .pitch), (0xC8, .pidOut .yaw),
   (0xD0, .out .a), (0xD4, .out .b), (0xD8, .out .c), (0xDC, .out .d)]

/-- R23: the register map. Offsets that are not in it are reserved (R51) or not word-aligned (R73). -/
def registerMap : List (Addr × Reg) := inputSlots ++ gainSlots ++ configSlots ++ outputSlots

/-- R23: the register at an offset; `none` where the map has none. -/
def slotAt (addr : Addr) : Option Reg := (registerMap.find? (fun row => row.1 == addr)).map (fun row => row.2)

/-- R23: the offset of a register, by name, for the assembler (R107). -/
def offsetOf : Reg → Addr
  | .cmd => 0x00
  | .status => 0x04
  | .errInfo => 0x08
  | .throttle => 0x0C
  | .sp .roll => 0x10
  | .sp .pitch => 0x14
  | .sp .yaw => 0x18
  | .meas .roll => 0x20
  | .meas .pitch => 0x24
  | .meas .yaw => 0x28
  | .kp .roll => 0x30
  | .ki .roll => 0x34
  | .kd .roll => 0x38
  | .maxi .roll => 0x3C
  | .kp .pitch => 0x40
  | .ki .pitch => 0x44
  | .kd .pitch => 0x48
  | .maxi .pitch => 0x4C
  | .kp .yaw => 0x50
  | .ki .yaw => 0x54
  | .kd .yaw => 0x58
  | .maxi .yaw => 0x5C
  | .iscale => 0x60
  | .pscale => 0x64
  | .thrGain => 0x68
  | .mixSign => 0x6C
  | .offset .a => 0x70
  | .offset .b => 0x74
  | .offset .c => 0x78
  | .offset .d => 0x7C
  | .minPulse => 0x80
  | .maxPulse => 0x84
  | .armPulse => 0x88
  | .armRampStep => 0x8C
  | .armThresh => 0x90
  | .integ .roll => 0xA0
  | .integ .pitch => 0xA4
  | .integ .yaw => 0xA8
  | .ramp => 0xAC
  | .lastErr .roll => 0xB0
  | .lastErr .pitch => 0xB4
  | .lastErr .yaw => 0xB8
  | .pidOut .roll => 0xC0
  | .pidOut .pitch => 0xC4
  | .pidOut .yaw => 0xC8
  | .out .a => 0xD0
  | .out .b => 0xD4
  | .out .c => 0xD8
  | .out .d => 0xDC

/-- R23: the access column. The `config` rows are the 25 registers of R45. -/
def accessOf : Reg → Access
  | .cmd => .writeOnly
  | .status | .errInfo | .integ _ | .ramp | .lastErr _ | .pidOut _ | .out _ => .readOnly
  | .throttle | .sp _ | .meas _ => .readWrite
  | .kp _ | .ki _ | .kd _ | .maxi _ | .iscale | .pscale | .thrGain | .mixSign | .offset _ => .config
  | .minPulse | .maxPulse | .armPulse | .armRampStep | .armThresh => .config

/-- R73: addr[1:0] = 0. -/
def aligned (addr : Addr) : Bool := addr.extractLsb' 0 2 == 0

/-- R74: `MemRead(addr, 4)`. It changes nothing and never errs. -/
def memRead (addr : Addr) (s : State) : Word :=
  if !aligned addr then 0
  else match slotAt addr with
    | none   => 0
    | some r => readReg r s

end Sys2Proof.Machine
end

