-- ==== Sys2Proof/Machine/Bus.lean ====
section
/-! DEFINITION. What the host's actions do: a command word written to CMD (spec/30_encoding.md R102), MemWrite
(spec/20_memory.md R75), MemRead as an action (R74), and reset (spec/70_reset_and_hazards.md R250, R251). -/

namespace Sys2Proof.Machine

/-- R102: `execute(w)`, run by a write of w to CMD. -/
def execute (w : Word) (s : State) : Host.Outcome State Fault Refusal :=
  match decode w with
  | .command i => exec i s
  | .illegal .reservedBits => .next (raiseError .cmdReserved w s)
  | .illegal .unknownOpcode => .next (raiseError .cmdUnknown w s)

/-- R220: the info word of a bus or configuration error, the byte address. -/
def addrInfo (addr : Addr) : Word := addr.setWidth 32

/-- R75: a write to a named register, by its access. -/
def writeReg (addr : Addr) (r : Reg) (w : Word) (s : State) : Host.Outcome State Fault Refusal :=
  match accessOf r with
  | .readOnly  => .next (raiseError .busReadonly (addrInfo addr) s)
  | .writeOnly => execute w s
  | .readWrite => .next (storeReg r w s)
  | .config    =>
    if s.mode = .idle then .next (storeReg r w s)
    else .next (raiseError .cfgLocked (addrInfo addr) s)

/-- R75: `MemWrite(addr, 4, w)`, the checks in the rule's order. -/
def memWrite (addr : Addr) (w : Word) (s : State) : Host.Outcome State Fault Refusal :=
  if !aligned addr then .next (raiseError .busMisaligned (addrInfo addr) s)
  else match slotAt addr with
    | none   => .next (raiseError .busReserved (addrInfo addr) s)
    | some r => writeReg addr r w s

/-- R263: one host action. A read hands its word to the host (assumption 3) and leaves the block as it was (R74).
Reset wins over a transaction it interrupts, which has no effect and returns no word (R251, R229). -/
def perform (act : HostAction) (s : State) : Host.Outcome State Fault Refusal :=
  match act with
  | .bus (.read addr)    => .next { s with answers := s.answers ++ [memRead addr s] }
  | .bus (.write addr w) => memWrite addr w s
  | .reset _             => .next (resetBlock s)
  | .powerUp             => .next (resetBlock s)

end Sys2Proof.Machine
end

