-- ==== Sys2Proof/Machine/Step.lean ====
section
/-! DEFINITION. One step: the next host action. -/

namespace Sys2Proof.Machine

/-- One step takes the host's next action and performs it (R71, R80: one action at a time, each in one indivisible
step). With no action waiting the block waits and nothing changes (R252; assumption 2). -/
def step (s : State) : Host.Outcome State Fault Refusal :=
  match s.pending with
  | []          => .next s
  | act :: rest => perform act { s with pending := rest }

/-- The host's next action is the write of this command word to CMD (R100). PIDMIX has no program memory: a command
is never fetched (R22, R86), so this is where the step takes its next instruction from (assumption 1). -/
def State.withFetchWord (s : State) (nbits w : Nat) : State :=
  { s with pending := .bus (.write 0x00 (tableWord nbits w)) :: s.pending }

end Sys2Proof.Machine
end

