-- ==== Sys2Proof/Machine/Datapath.lean ====
section
/-! DEFINITION. A realisation of TICK in n-bit two's-complement arithmetic, of which spec/00_scope.md R16 says that it
gives the exact result of every rule when n is at least 50. The machine does not use it: its meanings are the exact
ones, and that the two agree is a statement. -/

namespace Sys2Proof.Machine

/-- A register's value in the n-bit datapath. -/
def fx (n : Nat) (v : Int) : BitVec n := BitVec.ofInt n v

/-- R15 by signed comparisons. -/
def fxClamp {n : Nat} (v lo hi : BitVec n) : BitVec n :=
  let raised := if v.slt lo then lo else v
  if hi.slt raised then hi else raised

/-- R122. -/
def fxError (n : Nat) (s : State) (a : Axis) : BitVec n :=
  fx n (axisOf s a).meas.toInt - fx n (axisOf s a).sp.toInt

/-- R123, R124. -/
def fxIntegral (n : Nat) (s : State) (a : Axis) : BitVec n :=
  fxClamp (fx n (axisOf s a).integ.toInt + (fxError n s a).sdiv (fx n s.iscale.toNat))
    (-fx n (axisOf s a).maxi.toNat) (fx n (axisOf s a).maxi.toNat)

/-- R125, R126: the weighted sum. -/
def fxSum (n : Nat) (s : State) (a : Axis) : BitVec n :=
  fx n (axisOf s a).kp.toInt * fxError n s a + fx n (axisOf s a).ki.toInt * fxIntegral n s a
    + fx n (axisOf s a).kd.toInt * (fxError n s a - fx n (axisOf s a).lastErr.toInt)

/-- R126: the output. -/
def fxOutput (n : Nat) (s : State) (a : Axis) : BitVec n := -(fxSum n s a).sdiv (fx n s.pscale.toNat)

/-- R153: an output added or subtracted. -/
def fxSigned (n : Nat) (s : State) (m : Motor) (a : Axis) : BitVec n :=
  if s.mixSign.getLsbD (3 * motorIndex m + axisIndex a) then -fxOutput n s a else fxOutput n s a

/-- R152, R154: the mix. -/
def fxMix (n : Nat) (s : State) (m : Motor) : BitVec n :=
  (fx n s.throttle.val * fx n s.thrGain.toNat).sdiv (fx n s.pscale.toNat) + fx n (motorOf s m).offset.toInt
    + fxSigned n s m .roll + fxSigned n s m .pitch + fxSigned n s m .yaw

/-- R156, R160: the pulse width. -/
def fxPulse (n : Nat) (s : State) (m : Motor) : BitVec 16 :=
  if s.stop then s.minPulse
  else (fxClamp (fxMix n s m) (fx n s.minPulse.toNat) (fx n s.maxPulse.toNat)).setWidth 16

end Sys2Proof.Machine
end

