-- ==== Sys2Proof/Safety.lean ====
section
/-! DEFINITION. What holds of every state a run reaches (the machine's invariant), and the terms in which the
statements say what an action leaves alone. -/

namespace Sys2Proof.Machine

/-- R46: the integral is within its bound. -/
abbrev integralBounded (x : AxisRegs) : Prop :=
  -(x.maxi.toNat : Int) ≤ x.integ.toInt ∧ x.integ.toInt ≤ x.maxi.toNat

/-- R47: LASTERR lies in [-(2^24-1), 2^24-1]. -/
abbrev lastErrBounded (x : AxisRegs) : Prop :=
  -(2 ^ 24 - 1) ≤ x.lastErr.toInt ∧ x.lastErr.toInt ≤ 2 ^ 24 - 1

/-- R188: the controller state of an axis no TICK has run on since reset. -/
abbrev axisAtRest (x : AxisRegs) : Prop := x.integ = 0 ∧ x.lastErr = 0 ∧ x.pidOut = 0

/-- R54: the events come in whole frames, each on channels 0, 1, 2, 3 in that order. -/
def inFrames : List Event → Prop
  | [] => True
  | e0 :: e1 :: e2 :: e3 :: rest => e0.ch = 0 ∧ e1.ch = 1 ∧ e2.ch = 2 ∧ e3.ch = 3 ∧ inFrames rest
  | [_] | [_, _] | [_, _, _] => False

/-- The value last emitted on a channel, if there is one. -/
def lastPulse (events : List Event) (ch : Fin 4) : Option (BitVec 16) :=
  (events.reverse.find? (fun e => e.ch == ch)).map (fun e => e.v)

/-- The invariant of the machine. Each field names the rule whose "in every state" it is. -/
structure Inv (s : State) : Prop where
  /-- R44. -/
  iscalePositive : s.iscale ≠ 0
  /-- R44. -/
  pscalePositive : s.pscale ≠ 0
  /-- R46. -/
  integral : ∀ a, integralBounded (axisOf s a)
  /-- R47. -/
  lastErr : ∀ a, lastErrBounded (axisOf s a)
  /-- R188, R253: only TICK writes the controller state, and TICK runs only in Armed. -/
  atRest : s.mode ≠ .armed → ∀ a, axisAtRest (axisOf s a)
  /-- R49, and in the other modes too, since ARM_PULSE is locked outside Idle and RAMP is 0 in Idle. -/
  ramp : s.ramp.toNat ≤ s.armPulse.toNat
  /-- R49: RAMP is 0 until ARM_BEGIN. -/
  rampIdle : s.mode = .idle → s.ramp = 0
  /-- R29, R220: no cause on record, no info word. -/
  infoClear : s.errCause = .none → s.errInfo = 0
  /-- R221: no cause on record, no class bit. -/
  classClear : s.errCause = .none → s.errCmd = false ∧ s.errCfg = false ∧ s.errBus = false
  /-- R221: the class bit of the recorded cause is set. -/
  classSet : (isCmdClass s.errCause → s.errCmd) ∧ (isCfgClass s.errCause → s.errCfg) ∧
    (isBusClass s.errCause → s.errBus)
  /-- R54. -/
  frames : inFrames s.events
  /-- R50, R88: OUT_m is the value last emitted on its channel, or no frame has been emitted since reset. -/
  readBack : (∀ m, (motorOf s m).out = 0) ∨ (∀ m, lastPulse s.events (channel m) = some (motorOf s m).out)

/-- The slot an address names is none of the registers in `rs`. -/
def outside (rs : List Reg) (addr : Addr) : Prop := ∀ r ∈ rs, slotAt addr ≠ some r

/-- Every address outside the registers in `rs` reads as before, and the host's side of the bus is as before. -/
def unchangedExcept (rs : List Reg) (s t : State) : Prop :=
  (∀ addr, outside rs addr → memRead addr t = memRead addr s) ∧ t.pending = s.pending ∧ t.answers = s.answers

/-- The host actions that put the block at its reset values. -/
def isReset : HostAction → Bool
  | .reset _ => true
  | .powerUp => true
  | .bus _   => false

/-- The host action that issues a command. -/
def issue (i : Instr) : HostAction := .bus (.write 0x00 (encode i))

end Sys2Proof.Machine
end

