-- ==== Sys2Proof/Machine/Assembler.lean ====
section
/-! DEFINITION. The assembler's forms of spec/30_encoding.md R107 and R108: what host action each line stands for, which
bus transaction it is encoded as, and the text syntax of a line (assumption 14). -/

namespace Sys2Proof.Machine

/-- R107: a register by name, or a numeric offset that stands for one. -/
inductive AsmTarget where
  | reg (r : Reg)
  | offset (n : Nat)
deriving DecidableEq, Repr

/-- R107, R108: the lines of a program. -/
inductive AsmLine where
  /-- `wr REG, VALUE` -/
  | wr (t : AsmTarget) (value : Int)
  /-- `rd REG` -/
  | rd (t : AsmTarget)
  /-- `rst` -/
  | rst
  /-- a pseudo-instruction of R108 -/
  | pseudo (i : Instr)
deriving DecidableEq, Repr

/-- R107: the address a target names. -/
def targetAddr : AsmTarget → Addr
  | .reg r    => offsetOf r
  | .offset n => BitVec.ofNat 8 n

/-- R108: a pseudo-instruction expands to one `wr` to CMD. -/
def expandPseudo : AsmLine → AsmLine
  | .wr t v    => .wr t v
  | .rd t      => .rd t
  | .rst       => .rst
  | .pseudo i  => .wr (.reg .cmd) (opcode i).toNat

/-- R107: the host action a line stands for. -/
def lineAction (l : AsmLine) : HostAction :=
  match expandPseudo l with
  | .wr t v   => .bus (.write (targetAddr t) (word32 v))
  | .rd t     => .bus (.read (targetAddr t))
  | .rst      => .reset none
  | .pseudo i => .bus (.write 0x00 (encode i))

/-- R108: a program is encoded as the list of its bus transactions; `rst` is not one (R107). -/
def programEncoding (p : List AsmLine) : List Transaction :=
  p.filterMap fun l =>
    match lineAction l with
    | .bus t   => some t
    | .reset _ => none
    | .powerUp => none

/-- R23: the name of a register in the assembler. -/
def regName : Reg → String
  | .cmd => "CMD"
  | .status => "STATUS"
  | .errInfo => "ERR_INFO"
  | .throttle => "THROTTLE"
  | .sp .roll => "SP_ROLL"
  | .sp .pitch => "SP_PITCH"
  | .sp .yaw => "SP_YAW"
  | .meas .roll => "MEAS_ROLL"
  | .meas .pitch => "MEAS_PITCH"
  | .meas .yaw => "MEAS_YAW"
  | .kp .roll => "KP_ROLL"
  | .kp .pitch => "KP_PITCH"
  | .kp .yaw => "KP_YAW"
  | .ki .roll => "KI_ROLL"
  | .ki .pitch => "KI_PITCH"
  | .ki .yaw => "KI_YAW"
  | .kd .roll => "KD_ROLL"
  | .kd .pitch => "KD_PITCH"
  | .kd .yaw => "KD_YAW"
  | .maxi .roll => "MAXI_ROLL"
  | .maxi .pitch => "MAXI_PITCH"
  | .maxi .yaw => "MAXI_YAW"
  | .iscale => "ISCALE"
  | .pscale => "PSCALE"
  | .thrGain => "THR_GAIN"
  | .mixSign => "MIXSIGN"
  | .offset .a => "OFFSET_A"
  | .offset .b => "OFFSET_B"
  | .offset .c => "OFFSET_C"
  | .offset .d => "OFFSET_D"
  | .minPulse => "MIN_PULSE"
  | .maxPulse => "MAX_PULSE"
  | .armPulse => "ARM_PULSE"
  | .armRampStep => "ARM_RAMP_STEP"
  | .armThresh => "ARM_THRESH"
  | .integ .roll => "INTEG_ROLL"
  | .integ .pitch => "INTEG_PITCH"
  | .integ .yaw => "INTEG_YAW"
  | .ramp => "RAMP"
  | .lastErr .roll => "LASTERR_ROLL"
  | .lastErr .pitch => "LASTERR_PITCH"
  | .lastErr .yaw => "LASTERR_YAW"
  | .pidOut .roll => "PIDOUT_ROLL"
  | .pidOut .pitch => "PIDOUT_PITCH"
  | .pidOut .yaw => "PIDOUT_YAW"
  | .out .a => "OUT_A"
  | .out .b => "OUT_B"
  | .out .c => "OUT_C"
  | .out .d => "OUT_D"

/-- R108: the name of each pseudo-instruction. -/
def pseudoName : Instr → String
  | .nop      => "nop"
  | .tick     => "tick"
  | .armBegin => "arm.begin"
  | .armStep  => "arm.step"
  | .stopSet  => "stop.set"
  | .stopClr  => "stop.clr"
  | .errClr   => "err.clr"

/-- The seven commands, for looking a pseudo-instruction up by its name. -/
def allCommands : List Instr := [.nop, .tick, .armBegin, .armStep, .stopSet, .stopClr, .errClr]

/-- The value of a hexadecimal digit, capital or small. -/
def hexDigit (c : Char) : Option Nat :=
  if '0' ≤ c ∧ c ≤ '9' then some (c.toNat - '0'.toNat)
  else if 'a' ≤ c ∧ c ≤ 'f' then some (c.toNat - 'a'.toNat + 10)
  else if 'A' ≤ c ∧ c ≤ 'F' then some (c.toNat - 'A'.toNat + 10)
  else none

/-- One more digit of a number in the given base. -/
def addDigit (base : Nat) (acc : Option Nat) (c : Char) : Option Nat :=
  match acc, hexDigit c with
  | some n, some d => if d < base then some (base * n + d) else none
  | _, _ => none

/-- A number with at least one digit, in base 10 or 16. -/
def digits (base : Nat) (cs : List Char) : Option Nat :=
  if cs.isEmpty then none else cs.foldl (addDigit base) (some 0)

/-- R107: a decimal or a `0x` literal, without a sign. -/
def natLiteral (cs : List Char) : Option Nat :=
  match cs with
  | '0' :: 'x' :: ds => digits 16 ds
  | ds => digits 10 ds

/-- R107: VALUE is a decimal integer, optionally negative, or a hexadecimal literal. -/
def valueLiteral (cs : List Char) : Option Int :=
  match cs with
  | '-' :: ds => (digits 10 ds).map fun n => -(n : Int)
  | ds => (natLiteral ds).map fun n => (n : Int)

/-- R107: a register name, or a numeric offset that stands for one. -/
def targetOf (cs : List Char) : Option AsmTarget :=
  match registerMap.find? (fun row => (regName row.2).toList == cs) with
  | some row => some (.reg row.2)
  | none => (natLiteral cs).map .offset

/-- Puts one character in front of the lexemes of the rest of the line: blanks separate, a comma is a lexeme of its
own. The flag says whether the first lexeme is still open. -/
def lexChar (c : Char) (rest : Bool × List (List Char)) : Bool × List (List Char) :=
  if c = ' ' ∨ c = '\t' then (false, rest.2)
  else if c = ',' then (false, [','] :: rest.2)
  else match rest with
    | (true, w :: ws) => (true, (c :: w) :: ws)
    | (_, ws)         => (true, [c] :: ws)

/-- R107: the lexemes of a line, up to the `;` that begins a comment. -/
def lexemes (line : List Char) : List (List Char) :=
  ((line.takeWhile (· ≠ ';')).foldr lexChar (false, [])).2

/-- R107, R108: reads a line. `none`: not in the syntax. `some none`: blank, or a comment only. -/
def parseLine (text : String) : Option (Option AsmLine) :=
  match lexemes text.toList with
  | [] => some none
  | [op] =>
    if op = "rst".toList then some (some .rst)
    else match allCommands.find? (fun i => (pseudoName i).toList == op) with
      | some i => some (some (.pseudo i))
      | none => none
  | [op, t] => if op = "rd".toList then (targetOf t).map fun t' => some (.rd t') else none
  | [op, t, comma, v] =>
    if op = "wr".toList ∧ comma = [','] then
      match targetOf t, valueLiteral v with
      | some t', some v' => some (some (.wr t' v'))
      | _, _ => none
    else none
  | _ => none

end Sys2Proof.Machine
end

