-- ==== Sys2Proof/WellFormed.lean ====
section
/-! DEFINITION. Which terms are well formed. A command has no operand field (spec/30_encoding.md R101), so there is
nothing to check in one; the checks are those of the assembler's lines (R107). -/

namespace Sys2Proof

/-- R101, R103: every command is well formed, whatever the mode: the mode is the command's own business (R205). -/
def Instr.wellFormed : Instr → Bool
  | .nop      => true
  | .tick     => true
  | .armBegin => true
  | .armStep  => true
  | .stopSet  => true
  | .stopClr  => true
  | .errClr   => true

namespace Machine

/-- R107: VALUE lies in [-2^31, 2^32-1]. -/
def valueInRange (v : Int) : Bool := decide (-2 ^ 31 ≤ v ∧ v ≤ 2 ^ 32 - 1)

/-- R70, R107: a numeric offset is a byte address of the window. -/
def targetInWindow : AsmTarget → Bool
  | .reg _    => true
  | .offset n => decide (n < 256)

/-- R107: a well-formed line. -/
def AsmLine.wellFormed : AsmLine → Bool
  | .wr t v   => targetInWindow t && valueInRange v
  | .rd t     => targetInWindow t
  | .rst      => true
  | .pseudo i => i.wellFormed

end Machine

end Sys2Proof
end

