-- ==== Sys2Proof/Certificates/Slice0/Obligations.lean ====
section
/-! DEFINITION. The statements for the provers, each from a rule of spec/. The formulas of the rules are written out here
from the spec, in terms of the registers, so that they can be held beside the meanings. -/

namespace Sys2Proof.Machine

/-- R12: `sext_N(p)` of an N-bit pattern given as a number. -/
def sextN (n p : Nat) : Int := if p < 2 ^ (n - 1) then p else (p : Int) - 2 ^ n

/-- R122 to R124 in one line: the clamped integral of an axis, from the registers before a TICK. -/
def claimedIntegral (s : State) (a : Axis) : Int :=
  clamp ((axisOf s a).integ.toInt + tdiv ((axisOf s a).meas.toInt - (axisOf s a).sp.toInt) s.iscale.toNat)
    (-((axisOf s a).maxi.toNat : Int)) (axisOf s a).maxi.toNat

/-- R122 to R126 in one line: the exact output of an axis, from the registers before a TICK. -/
def claimedOutput (s : State) (a : Axis) : Int :=
  -tdiv ((axisOf s a).kp.toInt * ((axisOf s a).meas.toInt - (axisOf s a).sp.toInt)
      + (axisOf s a).ki.toInt * claimedIntegral s a
      + (axisOf s a).kd.toInt * ((axisOf s a).meas.toInt - (axisOf s a).sp.toInt - (axisOf s a).lastErr.toInt))
    s.pscale.toNat

/-- R153: `sgn(m, a)` as the bit says it. -/
def claimedSign (s : State) (m : Motor) (a : Axis) : Int :=
  1 - 2 * ((s.mixSign.toNat / 2 ^ (3 * motorIndex m + axisIndex a) % 2 : Nat) : Int)

/-- R152, R154: the mix of a motor, from the registers before a TICK. -/
def claimedMix (s : State) (m : Motor) : Int :=
  tdiv (s.throttle.val * s.thrGain.toNat) s.pscale.toNat + (motorOf s m).offset.toInt
    + claimedSign s m .roll * claimedOutput s .roll + claimedSign s m .pitch * claimedOutput s .pitch
    + claimedSign s m .yaw * claimedOutput s .yaw

/-- R156, R160: the pulse width of a motor, from the registers before a TICK. -/
def claimedPulse (s : State) (m : Motor) : Int :=
  if s.stop then s.minPulse.toNat else min (max (claimedMix s m) s.minPulse.toNat) s.maxPulse.toNat

/-- The registers a TICK in Armed writes: R127, R161. -/
def tickWrites : List Reg :=
  [.integ .roll, .integ .pitch, .integ .yaw, .lastErr .roll, .lastErr .pitch, .lastErr .yaw,
   .pidOut .roll, .pidOut .pitch, .pidOut .yaw, .out .a, .out .b, .out .c, .out .d]

/-- R51: the reserved offsets, as the rule lists them. -/
def reservedOffsets : List Addr :=
  [0x1C, 0x2C, 0x94, 0x98, 0x9C, 0xBC, 0xCC, 0xE0, 0xE4, 0xE8, 0xEC, 0xF0, 0xF4, 0xF8, 0xFC]

/-- R23: the 49 rows of the register table, offset and name, in the rule's order. -/
def claimedOffsets : List (Addr × Reg) :=
  [(0x00, .cmd), (0x04, .status), (0x08, .errInfo), (0x0C, .throttle), (0x10, .sp .roll), (0x14, .sp .pitch),
   (0x18, .sp .yaw), (0x20, .meas .roll), (0x24, .meas .pitch), (0x28, .meas .yaw)] ++
  [(0x30, .kp .roll), (0x34, .ki .roll), (0x38, .kd .roll), (0x3C, .maxi .roll), (0x40, .kp .pitch),
   (0x44, .ki .pitch), (0x48, .kd .pitch), (0x4C, .maxi .pitch), (0x50, .kp .yaw), (0x54, .ki .yaw),
   (0x58, .kd .yaw), (0x5C, .maxi .yaw)] ++
  [(0x60, .iscale), (0x64, .pscale), (0x68, .thrGain), (0x6C, .mixSign), (0x70, .offset .a), (0x74, .offset .b),
   (0x78, .offset .c), (0x7C, .offset .d), (0x80, .minPulse), (0x84, .maxPulse), (0x88, .armPulse),
   (0x8C, .armRampStep), (0x90, .armThresh)] ++
  [(0xA0, .integ .roll), (0xA4, .integ .pitch), (0xA8, .integ .yaw), (0xAC, .ramp), (0xB0, .lastErr .roll),
   (0xB4, .lastErr .pitch), (0xB8, .lastErr .yaw), (0xC0, .pidOut .roll), (0xC4, .pidOut .pitch),
   (0xC8, .pidOut .yaw), (0xD0, .out .a), (0xD4, .out .b), (0xD8, .out .c), (0xDC, .out .d)]

/-- R187: a host action that neither resets the block nor writes a roll setpoint whose magnitude exceeds the
threshold. -/
def keepsLinkQuiet (thresh : Nat) (act : HostAction) : Prop :=
  isReset act = false ∧ ∀ w, act = .bus (.write 0x10 w) → |sextN 24 (w.toNat % 2 ^ 24)| ≤ thresh

/-- Which host actions, in which mode, a rule lets change what a register reads as, reset apart: R24 (CMD), R30
(THROTTLE), R31, R32 (angles), R45 (configuration), R46 to R48 (controller state), R49 (RAMP), R50 (OUT). STATUS and
ERR_INFO have statements of their own. -/
def mayChange (r : Reg) (act : HostAction) (mode : Mode) : Prop :=
  match r with
  | .cmd => False
  | .status | .errInfo => True
  | .throttle => (∃ w, act = .bus (.write 0x0C w)) ∨ (act = issue .armStep ∧ mode = .arming)
  | .sp a => ∃ w, act = .bus (.write (offsetOf (.sp a)) w)
  | .meas a => ∃ w, act = .bus (.write (offsetOf (.meas a)) w)
  | .kp _ | .ki _ | .kd _ | .maxi _ | .iscale | .pscale | .thrGain | .mixSign | .offset _
  | .minPulse | .maxPulse | .armPulse | .armRampStep | .armThresh =>
    mode = .idle ∧ ∃ w, act = .bus (.write (offsetOf r) w)
  | .integ _ | .lastErr _ | .pidOut _ => act = issue .tick ∧ mode = .armed
  | .ramp => (act = issue .armBegin ∧ mode = .idle) ∨ (act = issue .armStep ∧ mode = .arming)
  | .out _ => (act = issue .tick ∧ mode = .armed) ∨ (act = issue .armStep ∧ mode = .arming)

/-- The state without the error record and without what reads have returned. -/
def forgetErrors (s : State) : State :=
  { s with errCmd := false, errCfg := false, errBus := false, errCause := .none, errInfo := 0, answers := [] }

/-- The state without the read-back copies OUT_m and PIDOUT_a and without what reads have returned. -/
def forgetReadBack (s : State) : State :=
  { s with
    roll := { s.roll with pidOut := 0 }
    pitch := { s.pitch with pidOut := 0 }
    yaw := { s.yaw with pidOut := 0 }
    motorA := { s.motorA with out := 0 }
    motorB := { s.motorB with out := 0 }
    motorC := { s.motorC with out := 0 }
    motorD := { s.motorD with out := 0 }
    answers := [] }

/-- R180: MODE after a command, as the table has it. The exit is that of R184. -/
def modeAfter (i : Instr) (s : State) : Mode :=
  match i, s.mode with
  | .armBegin, .idle  => .arming
  | .armStep, .arming => if (s.roll.sp.toInt.natAbs : Int) > s.armThresh.toNat then .armed else .arming
  | .armBegin, m | .armStep, m => m
  | .nop, m | .tick, m | .stopSet, m | .stopClr, m | .errClr, m => m

/-- R180: the cells of the table that say `err`. -/
def refusedInMode (i : Instr) (mode : Mode) : Bool :=
  match i, mode with
  | .tick, .idle | .tick, .arming | .armBegin, .armed | .armStep, .idle | .armStep, .armed => true
  | .tick, .armed | .armBegin, .idle | .armBegin, .arming | .armStep, .arming => false
  | .nop, _ | .stopSet, _ | .stopClr, _ | .errClr, _ => false

end Sys2Proof.Machine

open Sys2Proof Sys2Proof.Machine

/-! ## Encoding -/

/-- R103: the seven command words, written out, and the worked illegal words of R105 and R109. -/
def Obligations.WrittenOutWordsDecode : Prop :=
  decode 0b00000000000000000000000000000000#32 = .command .nop ∧
  decode 0b00000000000000000000000000000001#32 = .command .tick ∧
  decode 0b00000000000000000000000000000010#32 = .command .armBegin ∧
  decode 0b00000000000000000000000000000011#32 = .command .armStep ∧
  decode 0b00000000000000000000000000000100#32 = .command .stopSet ∧
  decode 0b00000000000000000000000000000101#32 = .command .stopClr ∧
  decode 0b00000000000000000000000000000110#32 = .command .errClr ∧
  decode 0x00000007#32 = .illegal .unknownOpcode ∧
  decode 0x000000FF#32 = .illegal .unknownOpcode ∧
  decode 0x00000101#32 = .illegal .reservedBits ∧
  decode 0xFFFFFFFF#32 = .illegal .reservedBits

/-- R101, R103: decoding an encoded command gives it back, for every command. -/
def Obligations.DecodeOfEncode : Prop :=
  ∀ i : Instr, i.wellFormed = true ∧ decode (encode i) = .command i

/-- R105: the three classes of words, by arithmetic on the word, and what an illegal word does when it is written to
CMD: the error procedure and nothing else. -/
def Obligations.EveryWordFallsInItsClass : Prop :=
  ∀ (w : Word) (s : State),
    (decode w = .illegal .reservedBits ↔ 256 ≤ w.toNat) ∧
    (decode w = .illegal .unknownOpcode ↔ 7 ≤ w.toNat ∧ w.toNat < 256) ∧
    (∀ i, decode w = .command i ↔ w = encode i) ∧
    ((∃ i, decode w = .command i) ↔ w.toNat < 7) ∧
    (256 ≤ w.toNat → memWrite 0x00 w s = .next (raiseError .cmdReserved w s)) ∧
    (7 ≤ w.toNat → w.toNat < 256 → memWrite 0x00 w s = .next (raiseError .cmdUnknown w s))

/-- R107 to R109: the worked lines of the assembler, as host actions, and the text of three of them. -/
def Obligations.AssemblerLinesEncode : Prop :=
  programEncoding [.wr (.reg .throttle) 50, .rd (.reg .status), .rst, .wr (.reg (.sp .roll)) (-10000),
      .wr (.reg .cmd) 0x101] =
    [.write 0x0C 0x00000032, .read 0x04, .write 0x10 0xFFFFD8F0, .write 0x00 0x00000101] ∧
  (∀ i, lineAction (.pseudo i) = issue i) ∧
  parseLine "wr THROTTLE, 50" = some (some (.wr (.reg .throttle) 50)) ∧
  parseLine "arm.begin ; leave Idle" = some (some (.pseudo .armBegin)) ∧
  parseLine "rd 0xE0" = some (some (.rd (.offset 0xE0)))

/-! ## Arithmetic -/

/-- R14: tdiv is the quotient of the magnitudes with the sign of the dividend, and is odd in it; the rule's examples. -/
def Obligations.DivisionTruncatesTowardZero : Prop :=
  (∀ a b : Int, 0 < b → tdiv a b = a.sign * (|a| / b) ∧ tdiv (-a) b = -tdiv a b) ∧
  tdiv 7 2 = 3 ∧ tdiv (-7) 2 = -3 ∧ tdiv (-50010) 100 = -500

/-- R15: the clamp lies in its bounds and keeps what already does; when the bounds cross the upper one wins; sat32 is
the clamp to 32-bit signed. -/
def Obligations.ClampUpperBoundWins : Prop :=
  ∀ v lo hi : Int,
    clamp v lo hi = min (max v lo) hi ∧
    (lo ≤ hi → lo ≤ clamp v lo hi ∧ clamp v lo hi ≤ hi) ∧
    (lo ≤ v → v ≤ hi → clamp v lo hi = v) ∧
    (hi < lo → clamp v lo hi = hi) ∧
    sat32 v = clamp v (-2 ^ 31) (2 ^ 31 - 1)

/-- R131, R157 (and so R16): in every state of the invariant, the bounds of the two tables as the rules give them, and
those of the values between the rows: the partial sums, and the product that T divides. -/
def Obligations.EveryIntermediateFitsFiftyBits : Prop :=
  ∀ s : State, Inv s →
    (∀ a,
      |pidError s a| ≤ 2 ^ 24 - 1 ∧
      |tdiv (pidError s a) s.iscale.toNat| ≤ 2 ^ 24 - 1 ∧
      |pidAccumulated s a| ≤ (2 ^ 31 - 1) + (2 ^ 24 - 1) ∧
      |pidIntegral s a| ≤ 2 ^ 31 - 1 ∧
      |pidDerivative s a| ≤ 2 ^ 25 - 2 ∧
      |(axisOf s a).kp.toInt * pidError s a| < 2 ^ 39 ∧
      |(axisOf s a).ki.toInt * pidIntegral s a| < 2 ^ 46 ∧
      |(axisOf s a).kd.toInt * pidDerivative s a| < 2 ^ 40 ∧
      |(axisOf s a).kp.toInt * pidError s a + (axisOf s a).ki.toInt * pidIntegral s a| < 2 ^ 39 + 2 ^ 46 ∧
      |pidSum s a| < 2 ^ 39 + 2 ^ 46 + 2 ^ 40 ∧
      |pidOutput s a| ≤ |pidSum s a| ∧ |pidOutput s a| < 2 ^ 47) ∧
    (s.throttle.val : Int) * s.thrGain.toNat ≤ 65535000 ∧
    0 ≤ baseThrottle s ∧ baseThrottle s ≤ 65535000 ∧
    ∀ m,
      -32768 ≤ baseThrottle s + (motorOf s m).offset.toInt ∧
      baseThrottle s + (motorOf s m).offset.toInt ≤ 65567767 ∧
      |baseThrottle s + (motorOf s m).offset.toInt + mixSgn s m .roll * pidOutput s .roll| < 2 ^ 26 + 2 ^ 47 ∧
      |baseThrottle s + (motorOf s m).offset.toInt + mixSgn s m .roll * pidOutput s .roll
        + mixSgn s m .pitch * pidOutput s .pitch| < 2 ^ 26 + 2 * 2 ^ 47 ∧
      |mix s m| < 2 ^ 26 + 3 * 2 ^ 47 ∧ |mix s m| < 2 ^ 49 ∧
      0 ≤ clampedMix s m ∧ clampedMix s m ≤ 65535

/-- R16: a datapath of at least 50 bits in two's complement gives the exact outputs, mixes and pulse widths of a TICK,
in every state of the invariant. -/
def Obligations.FiftyBitDatapathIsExact : Prop :=
  ∀ (n : Nat) (s : State), 50 ≤ n → Inv s →
    (∀ a, (fxIntegral n s a).toInt = claimedIntegral s a ∧ (fxOutput n s a).toInt = claimedOutput s a) ∧
    ∀ m, (fxMix n s m).toInt = claimedMix s m ∧ ((fxPulse n s m).toNat : Int) = claimedPulse s m

/-! ## The window and the bus -/

/-- R23, R51, R70: the offsets are the numbers of R23's table, which has every register; the map names each register at
its offset; an aligned address has no register exactly when it is one of the 15 reserved offsets; names and offsets are
one to one. -/
def Obligations.RegisterMapIsOneToOne : Prop :=
  (∀ row ∈ claimedOffsets, offsetOf row.2 = row.1) ∧ (∀ r, ∃ addr, (addr, r) ∈ claimedOffsets) ∧
  (∀ r, slotAt (offsetOf r) = some r ∧ aligned (offsetOf r) = true) ∧
  (∀ addr r, slotAt addr = some r → addr = offsetOf r) ∧
  (∀ addr, aligned addr = true → (slotAt addr = none ↔ addr ∈ reservedOffsets)) ∧
  (∀ addr, aligned addr = true ↔ addr.toNat % 4 = 0)

/-- R23, R24, R29 to R50: what each offset reads as, by its number in R23: the value of the register the table has
there, sign-extended where the rule says `word32(value)` of a signed value and zero-extended otherwise. (STATUS, at
0x04, has a statement of its own.) -/
def Obligations.EachOffsetReadsItsRegister : Prop :=
  ∀ s : State,
    (memRead 0x00 s = 0 ∧ memRead 0x08 s = s.errInfo ∧ memRead 0x0C s = BitVec.ofNat 32 s.throttle.val) ∧
    (memRead 0x10 s = word32 s.roll.sp.toInt ∧ memRead 0x14 s = word32 s.pitch.sp.toInt ∧
      memRead 0x18 s = word32 s.yaw.sp.toInt ∧ memRead 0x20 s = word32 s.roll.meas.toInt ∧
      memRead 0x24 s = word32 s.pitch.meas.toInt ∧ memRead 0x28 s = word32 s.yaw.meas.toInt) ∧
    (memRead 0x30 s = word32 s.roll.kp.toInt ∧ memRead 0x34 s = word32 s.roll.ki.toInt ∧
      memRead 0x38 s = word32 s.roll.kd.toInt ∧ memRead 0x3C s = BitVec.ofNat 32 s.roll.maxi.toNat ∧
      memRead 0x40 s = word32 s.pitch.kp.toInt ∧ memRead 0x44 s = word32 s.pitch.ki.toInt ∧
      memRead 0x48 s = word32 s.pitch.kd.toInt ∧ memRead 0x4C s = BitVec.ofNat 32 s.pitch.maxi.toNat ∧
      memRead 0x50 s = word32 s.yaw.kp.toInt ∧ memRead 0x54 s = word32 s.yaw.ki.toInt ∧
      memRead 0x58 s = word32 s.yaw.kd.toInt ∧ memRead 0x5C s = BitVec.ofNat 32 s.yaw.maxi.toNat) ∧
    (memRead 0x60 s = BitVec.ofNat 32 s.iscale.toNat ∧ memRead 0x64 s = BitVec.ofNat 32 s.pscale.toNat ∧
      memRead 0x68 s = BitVec.ofNat 32 s.thrGain.toNat ∧ memRead 0x6C s = BitVec.ofNat 32 s.mixSign.toNat ∧
      memRead 0x70 s = word32 s.motorA.offset.toInt ∧ memRead 0x74 s = word32 s.motorB.offset.toInt ∧
      memRead 0x78 s = word32 s.motorC.offset.toInt ∧ memRead 0x7C s = word32 s.motorD.offset.toInt) ∧
    (memRead 0x80 s = BitVec.ofNat 32 s.minPulse.toNat ∧ memRead 0x84 s = BitVec.ofNat 32 s.maxPulse.toNat ∧
      memRead 0x88 s = BitVec.ofNat 32 s.armPulse.toNat ∧ memRead 0x8C s = BitVec.ofNat 32 s.armRampStep.toNat ∧
      memRead 0x90 s = BitVec.ofNat 32 s.armThresh.toNat ∧ memRead 0xAC s = BitVec.ofNat 32 s.ramp.toNat) ∧
    (memRead 0xA0 s = word32 s.roll.integ.toInt ∧ memRead 0xA4 s = word32 s.pitch.integ.toInt ∧
      memRead 0xA8 s = word32 s.yaw.integ.toInt ∧ memRead 0xB0 s = word32 s.roll.lastErr.toInt ∧
      memRead 0xB4 s = word32 s.pitch.lastErr.toInt ∧ memRead 0xB8 s = word32 s.yaw.lastErr.toInt ∧
      memRead 0xC0 s = word32 s.roll.pidOut.toInt ∧ memRead 0xC4 s = word32 s.pitch.pidOut.toInt ∧
      memRead 0xC8 s = word32 s.yaw.pidOut.toInt) ∧
    (memRead 0xD0 s = BitVec.ofNat 32 s.motorA.out.toNat ∧ memRead 0xD4 s = BitVec.ofNat 32 s.motorB.out.toNat ∧
      memRead 0xD8 s = BitVec.ofNat 32 s.motorC.out.toNat ∧ memRead 0xDC s = BitVec.ofNat 32 s.motorD.out.toNat)

/-- R222, R74: a read as a step. The block keeps every register and event; misaligned, reserved and CMD addresses give 0.
That the word goes to the list `answers` of the state is the model's choice: assumption 3 (DESIGN CHOICE). -/
def Obligations.ReadHasNoEffect : Prop :=
  ∀ (s : State) (addr : Addr) (rest : List HostAction),
    s.pending = .bus (.read addr) :: rest →
    step s = .next { s with pending := rest, answers := s.answers ++ [memRead addr s] } ∧
    (addr.toNat % 4 ≠ 0 ∨ addr ∈ reservedOffsets ∨ addr = 0x00 → memRead addr s = 0)

/-- R73: a misaligned write records BUS_MISALIGNED and does nothing else; a misaligned read answers 0 and has no effect
on the block, whatever becomes of the word. -/
def Obligations.MisalignedAccess : Prop :=
  ∀ (s : State) (addr : Addr) (w : Word), addr.toNat % 4 ≠ 0 →
    memRead addr s = 0 ∧ memWrite addr w s = .next (raiseError .busMisaligned (BitVec.ofNat 32 addr.toNat) s) ∧
    ∀ rest, s.pending = .bus (.read addr) :: rest →
      ∃ t, step s = .next t ∧ { t with pending := s.pending, answers := s.answers } = s

/-- R51: a reserved offset reads 0 and a write to it records BUS_RESERVED and does nothing else; the reserved bits of
STATUS read 0, and STATUS takes no write. -/
def Obligations.ReservedOffsetHoldsNothing : Prop :=
  ∀ (s : State) (addr : Addr) (w : Word), addr ∈ reservedOffsets →
    memRead addr s = 0 ∧ memWrite addr w s = .next (raiseError .busReserved (BitVec.ofNat 32 addr.toNat) s) ∧
    memWrite 0x04 w s = .next (raiseError .busReadonly 0x00000004 s) ∧
    (memRead 0x04 s).getLsbD 3 = false ∧ (memRead 0x04 s).getLsbD 7 = false ∧ (memRead 0x04 s).toNat < 2 ^ 12

/-- R77: a write to a reserved slot or to one of the named read-only registers, and what is left alone. -/
def Obligations.ReadOnlyAndReservedWrites : Prop :=
  ∀ (s : State) (addr : Addr) (w : Word),
    (addr ∈ reservedOffsets → memWrite addr w s = .next (raiseError .busReserved (BitVec.ofNat 32 addr.toNat) s)) ∧
    (∀ r, (r = .status ∨ r = .errInfo ∨ r = .ramp ∨ (∃ a, r = .integ a ∨ r = .lastErr a ∨ r = .pidOut a) ∨
        (∃ m, r = .out m)) →
      memWrite (offsetOf r) w s = .next (raiseError .busReadonly (BitVec.ofNat 32 (offsetOf r).toNat) s)) ∧
    (∀ c i, unchangedExcept [.status, .errInfo] s (raiseError c i s) ∧ (raiseError c i s).events = s.events ∧
      (raiseError c i s).mode = s.mode ∧ (raiseError c i s).stop = s.stop)

/-- R78, R45: a write to a configuration register outside Idle keeps every register and records CFG_LOCKED with the
address; in Idle the next state is the one with the word stored in that register, as its own rule says (what each stores
is stated register by register), and nothing else changes. -/
def Obligations.ConfigurationLock : Prop :=
  ∀ (s : State) (r : Reg) (w : Word), accessOf r = .config →
    (s.mode ≠ .idle → memWrite (offsetOf r) w s = .next (raiseError .cfgLocked (BitVec.ofNat 32 (offsetOf r).toNat) s)) ∧
    (s.mode = .idle → ∃ t, memWrite (offsetOf r) w s = .next t ∧ t = storeReg r w s ∧ unchangedExcept [r] s t ∧ t.events = s.events)

/-- R30: THROTTLE, in every mode. -/
def Obligations.ThrottleStoresTheClampedWord : Prop :=
  ∀ (s : State) (w : Word), ∃ t, memWrite 0x0C w s = .next t ∧
    (t.throttle.val : Int) = min (max w.toInt 0) 1000 ∧
    memRead 0x0C t = BitVec.ofNat 32 t.throttle.val ∧
    t.stop = s.stop ∧ unchangedExcept [.throttle] s t ∧ t.events = s.events

/-- R31, R32: an angle register stores `sext_24(w[23:0])` in every mode and reads back its 32-bit sign extension. -/
def Obligations.AngleStoresTwentyFourBits : Prop :=
  ∀ (s : State) (a : Axis) (w : Word),
    (∃ t, memWrite (offsetOf (.sp a)) w s = .next t ∧
      (axisOf t a).sp.toInt = sextN 24 (w.toNat % 2 ^ 24) ∧
      memRead (offsetOf (.sp a)) t = word32 (sextN 24 (w.toNat % 2 ^ 24)) ∧
      unchangedExcept [.sp a] s t ∧ t.events = s.events) ∧
    (∃ t, memWrite (offsetOf (.meas a)) w s = .next t ∧
      (axisOf t a).meas.toInt = sextN 24 (w.toNat % 2 ^ 24) ∧
      memRead (offsetOf (.meas a)) t = word32 (sextN 24 (w.toNat % 2 ^ 24)) ∧
      unchangedExcept [.meas a] s t ∧ t.events = s.events)

/-- R33, R40: a gain or a motor offset stores `sext_16(w[15:0])` in Idle and reads back its sign extension. -/
def Obligations.GainAndOffsetStoreSixteenBits : Prop :=
  ∀ (s : State) (r : Reg) (w : Word), s.mode = .idle →
    ((∃ a, r = .kp a ∨ r = .ki a ∨ r = .kd a) ∨ ∃ m, r = .offset m) →
    ∃ t, memWrite (offsetOf r) w s = .next t ∧
      memRead (offsetOf r) t = word32 (sextN 16 (w.toNat % 2 ^ 16)) ∧
      (∀ a, (r = .kp a → (axisOf t a).kp.toInt = sextN 16 (w.toNat % 2 ^ 16)) ∧
        (r = .ki a → (axisOf t a).ki.toInt = sextN 16 (w.toNat % 2 ^ 16)) ∧
        (r = .kd a → (axisOf t a).kd.toInt = sextN 16 (w.toNat % 2 ^ 16))) ∧
      (∀ m, r = .offset m → (motorOf t m).offset.toInt = sextN 16 (w.toNat % 2 ^ 16)) ∧
      unchangedExcept [r] s t ∧ t.events = s.events

/-- R34: an integral bound stores w, or 0 when w is negative; it reads back as stored. -/
def Obligations.IntegralBoundStoresNonNegative : Prop :=
  ∀ (s : State) (a : Axis) (w : Word), s.mode = .idle →
    ∃ t, memWrite (offsetOf (.maxi a)) w s = .next t ∧
      (axisOf t a).maxi.toNat = (if w.toNat < 2 ^ 31 then w.toNat else 0) ∧
      memRead (offsetOf (.maxi a)) t = BitVec.ofNat 32 (axisOf t a).maxi.toNat ∧
      unchangedExcept [.maxi a] s t ∧ t.events = s.events

/-- R35, R36: a divisor stores w[15:0], with 0 stored as 1, so it is never 0; it reads back as stored. -/
def Obligations.DivisorStoresAtLeastOne : Prop :=
  ∀ (s : State) (w : Word), s.mode = .idle →
    (∃ t, memWrite 0x60 w s = .next t ∧ t.iscale.toNat = max (w.toNat % 2 ^ 16) 1 ∧
      memRead 0x60 t = BitVec.ofNat 32 t.iscale.toNat ∧ unchangedExcept [.iscale] s t ∧ t.events = s.events) ∧
    (∃ t, memWrite 0x64 w s = .next t ∧ t.pscale.toNat = max (w.toNat % 2 ^ 16) 1 ∧
      memRead 0x64 t = BitVec.ofNat 32 t.pscale.toNat ∧ unchangedExcept [.pscale] s t ∧ t.events = s.events)

/-- R37, R38, R41, R42, R43: the unsigned configuration registers store the low 16, 12 or 24 bits and read them back
zero-extended. -/
def Obligations.UnsignedFieldsStoreTheirLowBits : Prop :=
  ∀ (s : State) (w : Word), s.mode = .idle →
    (∃ t, memWrite 0x68 w s = .next t ∧ t.thrGain.toNat = w.toNat % 2 ^ 16 ∧
      memRead 0x68 t = BitVec.ofNat 32 (w.toNat % 2 ^ 16) ∧ unchangedExcept [.thrGain] s t ∧ t.events = s.events) ∧
    (∃ t, memWrite 0x6C w s = .next t ∧ t.mixSign.toNat = w.toNat % 2 ^ 12 ∧
      memRead 0x6C t = BitVec.ofNat 32 (w.toNat % 2 ^ 12) ∧ unchangedExcept [.mixSign] s t ∧ t.events = s.events) ∧
    (∃ t, memWrite 0x80 w s = .next t ∧ t.minPulse.toNat = w.toNat % 2 ^ 16 ∧
      memRead 0x80 t = BitVec.ofNat 32 (w.toNat % 2 ^ 16) ∧ unchangedExcept [.minPulse] s t ∧ t.events = s.events) ∧
    (∃ t, memWrite 0x84 w s = .next t ∧ t.maxPulse.toNat = w.toNat % 2 ^ 16 ∧
      memRead 0x84 t = BitVec.ofNat 32 (w.toNat % 2 ^ 16) ∧ unchangedExcept [.maxPulse] s t ∧ t.events = s.events) ∧
    (∃ t, memWrite 0x88 w s = .next t ∧ t.armPulse.toNat = w.toNat % 2 ^ 16 ∧
      memRead 0x88 t = BitVec.ofNat 32 (w.toNat % 2 ^ 16) ∧ unchangedExcept [.armPulse] s t ∧ t.events = s.events) ∧
    (∃ t, memWrite 0x8C w s = .next t ∧ t.armRampStep.toNat = w.toNat % 2 ^ 16 ∧
      memRead 0x8C t = BitVec.ofNat 32 (w.toNat % 2 ^ 16) ∧ unchangedExcept [.armRampStep] s t ∧
      t.events = s.events) ∧
    (∃ t, memWrite 0x90 w s = .next t ∧ t.armThresh.toNat = w.toNat % 2 ^ 24 ∧
      memRead 0x90 t = BitVec.ofNat 32 (w.toNat % 2 ^ 24) ∧ unchangedExcept [.armThresh] s t ∧ t.events = s.events)

/-- R76: writing the same word twice to an input register, or to a configuration register in Idle, leaves the state as
one write leaves it. -/
def Obligations.StoringTwiceIsStoringOnce : Prop :=
  ∀ (s : State) (r : Reg) (w : Word), (accessOf r = .readWrite ∨ accessOf r = .config ∧ s.mode = .idle) →
    ∃ t, memWrite (offsetOf r) w s = .next t ∧ memWrite (offsetOf r) w t = .next t

/-- R53, R238: no hidden state. Two states that read the same at every address, with the same events and the same
host side, are equal. -/
def Obligations.ReadsDetermineTheState : Prop :=
  ∀ s t : State, (∀ addr, memRead addr s = memRead addr t) → s.events = t.events → s.pending = t.pending →
    s.answers = t.answers → s = t

/-- R25, R26, R220: the fields of the STATUS word, with the codes of MODE and ERR_CAUSE written out from the rules. -/
def Obligations.StatusWordFields : Prop :=
  ∀ s : State,
    (memRead 0x04 s).toNat % 4 = (match s.mode with | .idle => 0 | .arming => 1 | .armed => 2) ∧
    (memRead 0x04 s).getLsbD 2 = s.stop ∧ (memRead 0x04 s).getLsbD 3 = false ∧
    (memRead 0x04 s).getLsbD 4 = s.errCmd ∧ (memRead 0x04 s).getLsbD 5 = s.errCfg ∧
    (memRead 0x04 s).getLsbD 6 = s.errBus ∧ (memRead 0x04 s).getLsbD 7 = false ∧
    (memRead 0x04 s).toNat / 2 ^ 8 = (match s.errCause with
      | .none => 0 | .cmdUnknown => 1 | .cmdReserved => 2 | .cmdMode => 3 | .cfgLocked => 4 | .busMisaligned => 5
      | .busReadonly => 6 | .busReserved => 7)

/-! ## Steps, reset and errors -/

/-- A step performs the host's next action, and waits when there is none (R71, R80, R252). The second half is the
model's choice of what waiting is: assumption 2. -/
def Obligations.StepTakesTheNextAction : Prop :=
  ∀ s : State,
    (∀ act rest, s.pending = act :: rest → step s = perform act { s with pending := rest }) ∧
    (s.pending = [] → step s = .next s)

/-- When the host's next action writes a word to CMD that decodes to a command, the step is that command's meaning, at
the state that has taken the action off the host's list (R24, R100, R102). -/
def Obligations.StepRunsTheDecodedCommand : Prop :=
  ∀ (s : State) (w : Word) (i : Instr) (rest : List HostAction),
    s.pending = .bus (.write 0x00 w) :: rest → decode w = .command i → i.wellFormed = true →
    step s = exec i { s with pending := rest }

/-- R250: the reset input and powering up put every register at its reset value, and append no event. -/
def Obligations.ResetValues : Prop :=
  ∀ s : State, ∃ t, perform (.reset none) s = .next t ∧ perform .powerUp s = .next t ∧
    t.mode = .idle ∧ t.events = s.events ∧
    ∀ addr, memRead addr t =
      if addr = 0x60 then 1 else if addr = 0x64 then 1 else if addr = 0x6C then 0x7A8 else 0

/-- R251: a transaction that reset interrupts has no effect: the state is the one reset alone leaves. That an interrupted
read returns no word (`t.answers = s.answers`) is the model's choice: assumption 3 (DESIGN CHOICE). -/
def Obligations.ResetWinsOverATransaction : Prop :=
  ∀ (s : State) (tr : Transaction), perform (.reset (some tr)) s = perform (.reset none) s ∧
    ∃ t, perform (.reset (some tr)) s = .next t ∧ t.answers = s.answers ∧ t.events = s.events ∧
      ∀ addr, memRead addr t = memRead addr State.reset

/-- R225: the error procedure. -/
def Obligations.ErrorProcedure : Prop :=
  ∀ (s : State) (c : ErrorCause) (info : Word),
    (raiseError c info s).errCmd = (s.errCmd || decide (c = .cmdUnknown ∨ c = .cmdReserved ∨ c = .cmdMode)) ∧
    (raiseError c info s).errCfg = (s.errCfg || decide (c = .cfgLocked)) ∧
    (raiseError c info s).errBus = (s.errBus || decide (c = .busMisaligned ∨ c = .busReadonly ∨ c = .busReserved)) ∧
    (s.errCause = .none → (raiseError c info s).errCause = c ∧ (raiseError c info s).errInfo = info) ∧
    (s.errCause ≠ .none → (raiseError c info s).errCause = s.errCause ∧ (raiseError c info s).errInfo = s.errInfo) ∧
    forgetErrors (raiseError c info s) = forgetErrors s

/-- R230: which error of several is raised. -/
def Obligations.ErrorPriority : Prop :=
  ∀ (s : State) (addr : Addr) (w : Word),
    (addr.toNat % 4 ≠ 0 → memWrite addr w s = .next (raiseError .busMisaligned (BitVec.ofNat 32 addr.toNat) s)) ∧
    (addr.toNat % 4 = 0 → slotAt addr = none →
      memWrite addr w s = .next (raiseError .busReserved (BitVec.ofNat 32 addr.toNat) s)) ∧
    (∀ r, slotAt addr = some r → accessOf r = .readOnly →
      memWrite addr w s = .next (raiseError .busReadonly (BitVec.ofNat 32 addr.toNat) s)) ∧
    (∀ r, slotAt addr = some r → accessOf r = .config → s.mode ≠ .idle →
      memWrite addr w s = .next (raiseError .cfgLocked (BitVec.ofNat 32 addr.toNat) s)) ∧
    (256 ≤ w.toNat → memWrite 0x00 w s = .next (raiseError .cmdReserved w s)) ∧
    (7 ≤ w.toNat → w.toNat < 256 → memWrite 0x00 w s = .next (raiseError .cmdUnknown w s)) ∧
    (∀ i, refusedInMode i s.mode = true → memWrite 0x00 (encode i) s = .next (raiseError .cmdMode (encode i) s))

/-- R28, R227: while an error is on record, no action other than ERR_CLR and reset changes the recorded cause and
info, or clears a class bit. -/
def Obligations.FirstErrorStaysOnRecord : Prop :=
  ∀ (s t : State) (act : HostAction) (rest : List HostAction),
    s.pending = act :: rest → step s = .next t → s.errCause ≠ .none → act ≠ issue .errClr → isReset act = false →
    t.errCause = s.errCause ∧ t.errInfo = s.errInfo ∧
      (s.errCmd = true → t.errCmd = true) ∧ (s.errCfg = true → t.errCfg = true) ∧ (s.errBus = true → t.errBus = true)

/-- R225, R226: a step that changes the error record, ERR_CLR and reset apart, changes nothing else but the host's list
of actions. -/
def Obligations.AnErrorChangesOnlyTheRecord : Prop :=
  ∀ (s t : State) (act : HostAction) (rest : List HostAction),
    s.pending = act :: rest → step s = .next t → act ≠ issue .errClr → isReset act = false →
    (t.errCmd, t.errCfg, t.errBus, t.errCause, t.errInfo) ≠ (s.errCmd, s.errCfg, s.errBus, s.errCause, s.errInfo) →
    ∃ c info, c ≠ .none ∧ t = raiseError c info { s with pending := rest }

/-- R28: an error bit changes no other behaviour. Two states that differ in the error record only read the same
elsewhere and step to states that differ in it only. -/
def Obligations.ErrorBitsChangeNothingElse : Prop :=
  ∀ s s' : State, forgetErrors s = forgetErrors s' →
    (∀ addr, addr ≠ 0x04 → addr ≠ 0x08 → memRead addr s = memRead addr s') ∧
    ∃ t t', step s = .next t ∧ step s' = .next t' ∧ forgetErrors t = forgetErrors t'

/-- R264, R226: a run does not end, whatever the host does: no error, command or bus access stops the machine. -/
def Obligations.ARunDoesNotEnd : Prop :=
  ∀ (k : Nat) (s : State), ∃ t, Sys2Proof.core.run k s = .next t

/-! ## The control commands -/

/-- R200: NOP, in every mode. -/
def Obligations.NopLeavesTheWholeState : Prop :=
  ∀ s : State, exec .nop s = .next s ∧ memWrite 0x00 0x00000000 s = .next s

/-- R202: STOP_SET sets the latch, in every mode, and changes nothing else; the latch then makes a TICK emit MIN_PULSE on
all four channels. -/
def Obligations.StopSetSetsTheLatch : Prop :=
  ∀ s : State, ∃ t, exec .stopSet s = .next t ∧ t = { s with stop := true } ∧ (s.stop = true → t = s) ∧
    unchangedExcept [.status] s t ∧ t.events = s.events ∧
    (s.mode = .armed → ∃ u, exec .tick t = .next u ∧
      u.events = s.events ++ [⟨0, s.minPulse⟩, ⟨1, s.minPulse⟩, ⟨2, s.minPulse⟩, ⟨3, s.minPulse⟩]) ∧
    (∀ v v' act rest, v.stop = true → v.pending = act :: rest → step v = .next v' → act ≠ issue .stopClr →
      isReset act = false → v'.stop = true)

/-- R203: STOP_CLR clears the latch, in every mode, and changes nothing else; the next TICK emits the clamped mix of the
registers as they then are; a set and a clear leave a clear state as it was, so the TICK after them is the TICK alone. -/
def Obligations.StopClrClearsTheLatch : Prop :=
  ∀ s : State, ∃ t, exec .stopClr s = .next t ∧ t = { s with stop := false } ∧ (s.stop = false → t = s) ∧
    unchangedExcept [.status] s t ∧ t.events = s.events ∧
    (s.mode = .armed → ∃ u, exec .tick t = .next u ∧
      (∀ m, ((motorOf u m).out.toNat : Int) = min (max (claimedMix s m) s.minPulse.toNat) s.maxPulse.toNat) ∧
      u.events = s.events ++ [⟨0, u.motorA.out⟩, ⟨1, u.motorB.out⟩, ⟨2, u.motorC.out⟩, ⟨3, u.motorD.out⟩]) ∧
    (s.stop = false → ∃ u, exec .stopSet s = .next u ∧ exec .stopClr u = .next s)

/-- R204: ERR_CLR clears the whole error record, keeps MODE and STOP and everything else, and re-enables first-error
capture; a malformed word clears nothing. -/
def Obligations.ErrClrClearsTheRecord : Prop :=
  ∀ s : State,
    (∃ t, exec .errClr s = .next t ∧
      t.errCmd = false ∧ t.errCfg = false ∧ t.errBus = false ∧ t.errCause = .none ∧ t.errInfo = 0 ∧
      t.mode = s.mode ∧ t.stop = s.stop ∧ forgetErrors t = forgetErrors s ∧ t.answers = s.answers ∧
      unchangedExcept [.status, .errInfo] s t ∧ (memRead 0x04 t).toNat / 16 = 0 ∧
      ∀ c info, (raiseError c info t).errCause = c ∧ (raiseError c info t).errInfo = info) ∧
    memWrite 0x00 0x00000106 s = .next (raiseError .cmdReserved 0x00000106 s) ∧
    ∀ w : Word, 256 ≤ w.toNat → memWrite 0x00 w s = .next (raiseError .cmdReserved w s)

/-- R27: between STOP_SET, STOP_CLR and reset no action changes the latch. -/
def Obligations.StopLatchWriters : Prop :=
  ∀ (s t : State) (act : HostAction) (rest : List HostAction),
    s.pending = act :: rest → step s = .next t → t.stop ≠ s.stop →
    (act = issue .stopSet ∧ t.stop = true) ∨ (act = issue .stopClr ∧ t.stop = false) ∨
      (isReset act = true ∧ t.stop = false)

/-! ## TICK -/

/-- R161: the TICK command. Outside Armed it records CMD_MODE with its word and does nothing else. In Armed: the
controller registers of each axis, the four events last and in order, OUT_m, and nothing else. -/
def Obligations.TickCommand : Prop :=
  (∀ s : State, s.mode ≠ .armed → exec .tick s = .next (raiseError .cmdMode 0x00000001 s)) ∧
  ∀ s : State, s.mode = .armed → s.iscale ≠ 0 → s.pscale ≠ 0 →
    ∃ t, exec .tick s = .next t ∧
      (∀ a, (axisOf t a).integ.toInt = claimedIntegral s a ∧
        (axisOf t a).lastErr.toInt = (axisOf s a).meas.toInt - (axisOf s a).sp.toInt ∧
        (axisOf t a).pidOut.toInt = min (max (claimedOutput s a) (-2 ^ 31)) (2 ^ 31 - 1)) ∧
      (∀ m, ((motorOf t m).out.toNat : Int) = claimedPulse s m) ∧
      t.events = s.events ++ [⟨0, t.motorA.out⟩, ⟨1, t.motorB.out⟩, ⟨2, t.motorC.out⟩, ⟨3, t.motorD.out⟩] ∧
      unchangedExcept tickWrites s t

/-- R128: the axes are independent: one axis's function in any order with another's gives the same state, the three in
sequence are the PID phase, and an axis's result depends on its own registers and the two shared divisors only. -/
def Obligations.AxesAreIndependent : Prop :=
  (∀ (s : State) (a b : Axis), pidAxis a (pidAxis b s) = pidAxis b (pidAxis a s)) ∧
  (∀ s : State, pidAxis .yaw (pidAxis .pitch (pidAxis .roll s)) = pidPhase s) ∧
  (∀ (s s' : State) (a : Axis), axisOf s a = axisOf s' a → s.iscale = s'.iscale → s.pscale = s'.pscale →
    axisOf (pidPhase s) a = axisOf (pidPhase s') a ∧ pidOutput s a = pidOutput s' a)

/-- R132: a constant error. Whatever is in the integral, enough TICKs with unchanged inputs leave it exactly at the bound
on the error's side, and every further one leaves it there. -/
def Obligations.ConstantErrorDrivesTheIntegralToItsBound : Prop :=
  ∀ (s : State) (a : Axis) (k : Nat) (rest : List HostAction),
    s.mode = .armed → s.iscale ≠ 0 → integralBounded (axisOf s a) →
    s.pending = List.replicate k (issue .tick) ++ rest →
    (2 * (axisOf s a).maxi.toNat : Int) ≤ k * |tdiv ((axisOf s a).meas.toInt - (axisOf s a).sp.toInt) s.iscale.toNat| →
    ∃ t, Sys2Proof.core.run k s = .next t ∧ t.pending = rest ∧
      (0 < tdiv ((axisOf s a).meas.toInt - (axisOf s a).sp.toInt) s.iscale.toNat →
        (axisOf t a).integ.toInt = (axisOf s a).maxi.toNat) ∧
      (tdiv ((axisOf s a).meas.toInt - (axisOf s a).sp.toInt) s.iscale.toNat < 0 →
        (axisOf t a).integ.toInt = -((axisOf s a).maxi.toNat : Int))

/-- R133, R160: with the stop latch set a TICK emits MIN_PULSE on all four channels, whatever the bounds, and leaves the
controller registers as the TICK of the same state without the latch does. -/
def Obligations.StopOverridesOutputsOnly : Prop :=
  ∀ s : State, s.mode = .armed →
    ∃ t u, exec .tick { s with stop := true } = .next t ∧ exec .tick { s with stop := false } = .next u ∧
      (∀ m, (motorOf t m).out = s.minPulse) ∧
      (∀ m, ((motorOf u m).out.toNat : Int) = min (max (claimedMix s m) s.minPulse.toNat) s.maxPulse.toNat) ∧
      t.events = s.events ++ [⟨0, s.minPulse⟩, ⟨1, s.minPulse⟩, ⟨2, s.minPulse⟩, ⟨3, s.minPulse⟩] ∧
      ∀ a, axisOf t a = axisOf u a

/-- R156: the safety clamp, motor by motor, and which bound wins when they cross. -/
def Obligations.SafetyClampBoundsEachMotor : Prop :=
  ∀ s : State, s.mode = .armed → s.stop = false →
    ∃ t, exec .tick s = .next t ∧ ∀ m,
      ((motorOf t m).out.toNat : Int) = clamp (claimedMix s m) s.minPulse.toNat s.maxPulse.toNat ∧
      (s.minPulse.toNat ≤ s.maxPulse.toNat →
        s.minPulse.toNat ≤ (motorOf t m).out.toNat ∧ (motorOf t m).out.toNat ≤ s.maxPulse.toNat) ∧
      (s.maxPulse.toNat < s.minPulse.toNat → (motorOf t m).out = s.maxPulse)

/-- R155: the mixes under the reset value of MIXSIGN. -/
def Obligations.DefaultLayoutMixes : Prop :=
  ∀ s : State, s.mixSign = 0x7A8 →
    mix s .a = baseThrottle s + s.motorA.offset.toInt + pidOutput s .roll + pidOutput s .pitch + pidOutput s .yaw ∧
    mix s .b = baseThrottle s + s.motorB.offset.toInt - pidOutput s .roll + pidOutput s .pitch - pidOutput s .yaw ∧
    mix s .c = baseThrottle s + s.motorC.offset.toInt + pidOutput s .roll - pidOutput s .pitch - pidOutput s .yaw ∧
    mix s .d = baseThrottle s + s.motorD.offset.toInt - pidOutput s .roll - pidOutput s .pitch + pidOutput s .yaw

/-- R48, R50, R158: nothing reads OUT_m or PIDOUT_a. Two states that differ in them only step to states that differ in
them only, with the same events. -/
def Obligations.ReadBackCopiesFeedNothing : Prop :=
  ∀ s s' : State, forgetReadBack s = forgetReadBack s' →
    ∃ t t', step s = .next t ∧ step s' = .next t' ∧ t.events = t'.events ∧ forgetReadBack t = forgetReadBack t'

/-! ## Arming -/

/-- R181 to R183: the ARM_BEGIN command. In Idle: the ramp's start, the mode, nothing else, and then the configuration
is locked. In Arming it does nothing; in Armed it records CMD_MODE with its word and does nothing else. -/
def Obligations.ArmBeginCommand : Prop :=
  (∀ s : State, s.mode = .idle → s.pscale ≠ 0 →
    ∃ t, exec .armBegin s = .next t ∧ t.mode = .arming ∧
      (t.ramp.toNat : Int) = min (tdiv (s.throttle.val * s.thrGain.toNat) s.pscale.toNat) s.armPulse.toNat ∧
      t.events = s.events ∧ t = { s with mode := .arming, ramp := t.ramp } ∧ unchangedExcept [.status, .ramp] s t ∧
      ∀ r w, accessOf r = .config →
        memWrite (offsetOf r) w t = .next (raiseError .cfgLocked (BitVec.ofNat 32 (offsetOf r).toNat) t)) ∧
  (∀ s : State, s.mode = .arming → exec .armBegin s = .next s) ∧
  ∀ s : State, s.mode = .armed → exec .armBegin s = .next (raiseError .cmdMode 0x00000002 s)

/-- R184, R185: the ARM_STEP command. Outside Arming it records CMD_MODE with its word and does nothing else. When the
roll setpoint exceeds the threshold: THROTTLE becomes 0, MODE Armed, no event, nothing else (and so R188). Otherwise one
value goes out on the four channels, and then the ramp advances. -/
def Obligations.ArmStepCommand : Prop :=
  (∀ s : State, s.mode ≠ .arming → exec .armStep s = .next (raiseError .cmdMode 0x00000003 s)) ∧
  (∀ s : State, s.mode = .arming → (s.armThresh.toNat : Int) < |s.roll.sp.toInt| →
    ∃ t, exec .armStep s = .next t ∧ t = { s with throttle := 0, mode := .armed } ∧ t.events = s.events ∧
      unchangedExcept [.status, .throttle] s t) ∧
  ∀ s : State, s.mode = .arming → |s.roll.sp.toInt| ≤ s.armThresh.toNat →
    ∃ t v, exec .armStep s = .next t ∧ v.toNat = min s.ramp.toNat s.maxPulse.toNat ∧
      t.events = s.events ++ [⟨0, v⟩, ⟨1, v⟩, ⟨2, v⟩, ⟨3, v⟩] ∧ (∀ m, (motorOf t m).out = v) ∧
      t.ramp.toNat = min (s.ramp.toNat + s.armRampStep.toNat) s.armPulse.toNat ∧
      t.mode = .arming ∧ unchangedExcept [.ramp, .out .a, .out .b, .out .c, .out .d] s t

/-- R186: with the ramp within the arming pulse (R49), an arming pass emits at most `min(ARM_PULSE, MAX_PULSE)` on every
channel, and the stop latch does not change what it emits. -/
def Obligations.ArmingStaysUnderItsBound : Prop :=
  ∀ (s : State) (b : Bool), s.mode = .arming → s.ramp.toNat ≤ s.armPulse.toNat →
    ∃ t u evs, exec .armStep s = .next t ∧ exec .armStep { s with stop := b } = .next u ∧
      t.events = s.events ++ evs ∧ u.events = s.events ++ evs ∧
      (∀ e ∈ evs, e.v.toNat ≤ s.armPulse.toNat ∧ e.v.toNat ≤ s.maxPulse.toNat) ∧
      t.ramp.toNat ≤ t.armPulse.toNat ∧ t.stop = s.stop

/-- R187, R185, R45: arming can last forever. Whatever the host does, reset and a roll setpoint over the threshold apart,
any number of actions leaves the block in Arming; the ramp has climbed by one increment, and the port grown by one frame,
for each ARM_STEP among them. -/
def Obligations.ArmingCanLastForever : Prop :=
  ∀ (s : State) (acts rest : List HostAction),
    s.mode = .arming → |s.roll.sp.toInt| ≤ s.armThresh.toNat → s.ramp.toNat ≤ s.armPulse.toNat →
    s.pending = acts ++ rest → (∀ act ∈ acts, keepsLinkQuiet s.armThresh.toNat act) →
    ∃ t, Sys2Proof.core.run acts.length s = .next t ∧ t.mode = .arming ∧ t.pending = rest ∧
      t.ramp.toNat = min (s.ramp.toNat + acts.count (issue .armStep) * s.armRampStep.toNat) s.armPulse.toNat ∧
      t.events.length = s.events.length + 4 * acts.count (issue .armStep)

/-- R187, R184, R45: the step behind it. In Arming with the roll setpoint within the threshold, every action but reset
and a write of a setpoint over it keeps both, and the threshold. -/
def Obligations.ArmingIsKeptByEveryQuietAction : Prop :=
  ∀ (s t : State) (act : HostAction) (rest : List HostAction),
    s.pending = act :: rest → step s = .next t → keepsLinkQuiet s.armThresh.toNat act →
    s.mode = .arming → |s.roll.sp.toInt| ≤ s.armThresh.toNat →
    t.mode = .arming ∧ |t.roll.sp.toInt| ≤ t.armThresh.toNat ∧ t.armThresh = s.armThresh

/-- R190: a threshold of 2^23 or more is never exceeded; -2^23 exceeds every smaller one. -/
def Obligations.ThresholdCorners : Prop :=
  ∀ s : State, s.mode = .arming →
    (2 ^ 23 ≤ s.armThresh.toNat → ∃ t, exec .armStep s = .next t ∧ t.mode = .arming) ∧
    (s.armThresh.toNat < 2 ^ 23 → s.roll.sp = 0x800000#24 → ∃ t, exec .armStep s = .next t ∧ t.mode = .armed)

/-- R253, R125: the TICK right after arming completes sees LASTERR_a = 0, so its derivative is the whole error. -/
def Obligations.FirstTickDerivativeIsTheError : Prop :=
  ∀ (s : State), Inv s → s.mode = .arming → (s.armThresh.toNat : Int) < |s.roll.sp.toInt| →
    ∃ t u, exec .armStep s = .next t ∧ exec .tick t = .next u ∧ ∀ a,
      (axisOf t a).lastErr = 0 ∧
      (axisOf u a).pidOut.toInt =
        min (max (-tdiv (((axisOf s a).kp.toInt + (axisOf s a).kd.toInt)
              * ((axisOf s a).meas.toInt - (axisOf s a).sp.toInt)
            + (axisOf s a).ki.toInt * (axisOf u a).integ.toInt) s.pscale.toNat) (-2 ^ 31)) (2 ^ 31 - 1)

/-! ## The whole machine -/

/-- R180: the table of transitions, for the seven commands and reset in the three modes: the mode after, the cells that
record CMD_MODE and do nothing else, and the cells with no error. -/
def Obligations.ModeTransitionTable : Prop :=
  (∀ s : State, ∃ t, perform (.reset none) s = .next t ∧ t.mode = .idle) ∧
  ∀ (s : State) (i : Instr), ∃ t, exec i s = .next t ∧ t.mode = modeAfter i s ∧
    (i = .nop ∨ (i = .armBegin ∧ s.mode = .arming) → t = s) ∧
    (refusedInMode i s.mode = true → t = raiseError .cmdMode (encode i) s) ∧
    (refusedInMode i s.mode = false → i ≠ .errClr →
      (t.errCmd, t.errCfg, t.errBus, t.errCause, t.errInfo) = (s.errCmd, s.errCfg, s.errBus, s.errCause, s.errInfo))

/-- R26: MODE reads as 0, 1 or 2 and changes only by ARM_BEGIN from Idle, by the exit of ARM_STEP from Arming, and by reset; Armed is left
only by reset. -/
def Obligations.ModeWriters : Prop :=
  (∀ s : State, (memRead 0x04 s).toNat % 4 = (match s.mode with | .idle => 0 | .arming => 1 | .armed => 2)) ∧
  ∀ (s t : State) (act : HostAction) (rest : List HostAction),
    s.pending = act :: rest → step s = .next t → t.mode ≠ s.mode →
    (act = issue .armBegin ∧ s.mode = .idle ∧ t.mode = .arming) ∨
    (act = issue .armStep ∧ s.mode = .arming ∧ t.mode = .armed) ∨
    (isReset act = true ∧ t.mode = .idle)

/-- R24, R30 to R32, R45 to R50, R53: no register but STATUS and ERR_INFO changes except by the actions its own rule
names, and by reset. -/
def Obligations.RegistersChangeOnlyByTheirWriters : Prop :=
  ∀ (s t : State) (act : HostAction) (rest : List HostAction) (r : Reg),
    s.pending = act :: rest → step s = .next t → memRead (offsetOf r) t ≠ memRead (offsetOf r) s →
    mayChange r act s.mode ∨ isReset act = true

/-- R54, R162, R185: a step appends nothing to the actuator port, or exactly one frame, on channels 0, 1, 2, 3 in that
order with the values OUT_m then holds; and a frame comes only from TICK in Armed and ARM_STEP in Arming. -/
def Obligations.EventsComeInWholeFrames : Prop :=
  ∀ (s t : State) (act : HostAction) (rest : List HostAction), s.pending = act :: rest → step s = .next t →
    t.events = s.events ∨
    (t.events = s.events ++ [⟨0, t.motorA.out⟩, ⟨1, t.motorB.out⟩, ⟨2, t.motorC.out⟩, ⟨3, t.motorD.out⟩] ∧
      ((act = issue .tick ∧ s.mode = .armed) ∨ (act = issue .armStep ∧ s.mode = .arming)))

/-- R156, R160, R185: MAX_PULSE is a hard ceiling. Every value any step emits is at most MAX_PULSE, or it is MIN_PULSE
under the stop latch. -/
def Obligations.MaxPulseIsAHardCeiling : Prop :=
  ∀ (s t : State) (act : HostAction) (rest : List HostAction), s.pending = act :: rest → step s = .next t →
    ∃ evs, t.events = s.events ++ evs ∧
      ∀ e ∈ evs, e.v.toNat ≤ s.maxPulse.toNat ∨ (s.stop = true ∧ e.v = s.minPulse)

/-- The invariant holds at reset (R250). -/
def Obligations.InvariantAtReset : Prop := Inv State.reset

/-- R44, R46, R47, R49, R50, R54, R221: every step, of any action, in any state, keeps the invariant. -/
def Obligations.EveryStepKeepsTheInvariant : Prop :=
  ∀ s t : State, Inv s → step s = .next t → Inv t
end

