-- ==== Sys2Proof/Config.lean ====
section
/-! DEFINITION. What is fixed for a PIDMIX block, and the two open parameters of spec/00_scope.md R9. -/

namespace Sys2Proof.Config

/-- R9, R262: the period at which the host issues TICK, in a unit the spec does not give. OPEN (decision D25): no
value is chosen, and no rule of the model reads it (assumption 10). -/
opaque tickPeriod : Nat

/-- R9, R262: the period at which the host issues ARM_STEP. OPEN (decision D25), as `tickPeriod` (R189). -/
opaque armCadence : Nat

/-- R7: the number of controlled axes. -/
def numAxes : Nat := 3

/-- R7: the number of motors, one actuator channel each. -/
def numMotors : Nat := 4

/-- R70: the size of the register window in bytes. -/
def windowBytes : Nat := 256

end Sys2Proof.Config
end

