-- ==== Sys2Proof/Laws/Arith.lean ====
section
/-! SUPPORT. The integer primitives: what a clamp and a truncating quotient can be, and that a value stored in a register
that holds it reads back. -/

namespace Sys2Proof.Machine

theorem clamp_le_upper (v lo hi : Int) : clamp v lo hi ≤ hi := min_le_right _ _

theorem lower_le_clamp {v lo hi : Int} (h : lo ≤ hi) : lo ≤ clamp v lo hi := le_min (le_max_right _ _) h

theorem clamp_of_crossed {v lo hi : Int} (h : hi ≤ lo) : clamp v lo hi = hi :=
  min_eq_right (le_trans h (le_max_right _ _))

theorem clamp_of_within {v lo hi : Int} (h1 : lo ≤ v) (h2 : v ≤ hi) : clamp v lo hi = v := by
  rw [clamp, max_eq_left h1, min_eq_left h2]

/-- A quotient by a non-negative divisor is no larger in magnitude than the dividend. -/
theorem natAbs_tdiv_le (a : Int) (b : Nat) : (tdiv a b).natAbs ≤ a.natAbs := by
  rw [tdiv, Int.natAbs_tdiv]
  exact Nat.div_le_self _ _

theorem tdiv_nonneg {a : Int} (b : Nat) (h : 0 ≤ a) : 0 ≤ tdiv a b := Int.tdiv_nonneg h (Int.natCast_nonneg b)

/-- A value in the 32-bit signed range reads back from a 32-bit register. -/
theorem toInt_word32 {v : Int} (h1 : -2 ^ 31 ≤ v) (h2 : v < 2 ^ 31) : (word32 v).toInt = v := by
  rw [word32, BitVec.toInt_ofInt]
  exact Int.bmod_eq_of_le (by simpa using h1) (by simpa using h2)

/-- A pulse width in [0, 65535] reads back from a 16-bit register. -/
theorem toNat_pulse {v : Int} (h1 : 0 ≤ v) (h2 : v ≤ 65535) : ((BitVec.ofInt 16 v).toNat : Int) = v := by
  rw [BitVec.toNat_ofInt]
  omega

/-- A signed register of the stored width holds a value of its range. -/
theorem toInt_bounds {w : Nat} (x : BitVec w) : -2 ^ (w - 1) ≤ x.toInt ∧ x.toInt ≤ 2 ^ (w - 1) - 1 :=
  ⟨BitVec.le_toInt x, Int.le_sub_one_of_lt BitVec.toInt_lt⟩

end Sys2Proof.Machine
end

