-- ==== Sys2Proof/Laws/State.lean ====
section
/-! SUPPORT. One lemma per field of State for each shared operation, so that no proof unfolds a record update. Operations
that rewrite a state by axis or motor come with the lemmas of the accessors. -/

namespace Sys2Proof.Machine

/-! ### raiseError -/

@[simp] theorem raiseError_mode (c : ErrorCause) (i : Word) (s : State) : (raiseError c i s).mode = s.mode := rfl
@[simp] theorem raiseError_stop (c : ErrorCause) (i : Word) (s : State) : (raiseError c i s).stop = s.stop := rfl
@[simp] theorem raiseError_throttle (c : ErrorCause) (i : Word) (s : State) : (raiseError c i s).throttle = s.throttle := rfl
@[simp] theorem raiseError_roll (c : ErrorCause) (i : Word) (s : State) : (raiseError c i s).roll = s.roll := rfl
@[simp] theorem raiseError_pitch (c : ErrorCause) (i : Word) (s : State) : (raiseError c i s).pitch = s.pitch := rfl
@[simp] theorem raiseError_yaw (c : ErrorCause) (i : Word) (s : State) : (raiseError c i s).yaw = s.yaw := rfl
@[simp] theorem raiseError_iscale (c : ErrorCause) (i : Word) (s : State) : (raiseError c i s).iscale = s.iscale := rfl
@[simp] theorem raiseError_pscale (c : ErrorCause) (i : Word) (s : State) : (raiseError c i s).pscale = s.pscale := rfl
@[simp] theorem raiseError_thrGain (c : ErrorCause) (i : Word) (s : State) : (raiseError c i s).thrGain = s.thrGain := rfl
@[simp] theorem raiseError_mixSign (c : ErrorCause) (i : Word) (s : State) : (raiseError c i s).mixSign = s.mixSign := rfl
@[simp] theorem raiseError_motorA (c : ErrorCause) (i : Word) (s : State) : (raiseError c i s).motorA = s.motorA := rfl
@[simp] theorem raiseError_motorB (c : ErrorCause) (i : Word) (s : State) : (raiseError c i s).motorB = s.motorB := rfl
@[simp] theorem raiseError_motorC (c : ErrorCause) (i : Word) (s : State) : (raiseError c i s).motorC = s.motorC := rfl
@[simp] theorem raiseError_motorD (c : ErrorCause) (i : Word) (s : State) : (raiseError c i s).motorD = s.motorD := rfl
@[simp] theorem raiseError_minPulse (c : ErrorCause) (i : Word) (s : State) : (raiseError c i s).minPulse = s.minPulse := rfl
@[simp] theorem raiseError_maxPulse (c : ErrorCause) (i : Word) (s : State) : (raiseError c i s).maxPulse = s.maxPulse := rfl
@[simp] theorem raiseError_armPulse (c : ErrorCause) (i : Word) (s : State) : (raiseError c i s).armPulse = s.armPulse := rfl
@[simp] theorem raiseError_armRampStep (c : ErrorCause) (i : Word) (s : State) : (raiseError c i s).armRampStep = s.armRampStep := rfl
@[simp] theorem raiseError_armThresh (c : ErrorCause) (i : Word) (s : State) : (raiseError c i s).armThresh = s.armThresh := rfl
@[simp] theorem raiseError_ramp (c : ErrorCause) (i : Word) (s : State) : (raiseError c i s).ramp = s.ramp := rfl
@[simp] theorem raiseError_events (c : ErrorCause) (i : Word) (s : State) : (raiseError c i s).events = s.events := rfl
@[simp] theorem raiseError_pending (c : ErrorCause) (i : Word) (s : State) : (raiseError c i s).pending = s.pending := rfl
@[simp] theorem raiseError_answers (c : ErrorCause) (i : Word) (s : State) : (raiseError c i s).answers = s.answers := rfl
@[simp] theorem raiseError_errCmd (c : ErrorCause) (i : Word) (s : State) :
    (raiseError c i s).errCmd = (s.errCmd || isCmdClass c) := rfl
@[simp] theorem raiseError_errCfg (c : ErrorCause) (i : Word) (s : State) :
    (raiseError c i s).errCfg = (s.errCfg || isCfgClass c) := rfl
@[simp] theorem raiseError_errBus (c : ErrorCause) (i : Word) (s : State) :
    (raiseError c i s).errBus = (s.errBus || isBusClass c) := rfl
@[simp] theorem raiseError_errCause (c : ErrorCause) (i : Word) (s : State) :
    (raiseError c i s).errCause = if s.errCause = .none then c else s.errCause := rfl
@[simp] theorem raiseError_errInfo (c : ErrorCause) (i : Word) (s : State) :
    (raiseError c i s).errInfo = if s.errCause = .none then i else s.errInfo := rfl

/-! ### clearErrors -/

@[simp] theorem clearErrors_mode (s : State) : (clearErrors s).mode = s.mode := rfl
@[simp] theorem clearErrors_stop (s : State) : (clearErrors s).stop = s.stop := rfl
@[simp] theorem clearErrors_throttle (s : State) : (clearErrors s).throttle = s.throttle := rfl
@[simp] theorem clearErrors_roll (s : State) : (clearErrors s).roll = s.roll := rfl
@[simp] theorem clearErrors_pitch (s : State) : (clearErrors s).pitch = s.pitch := rfl
@[simp] theorem clearErrors_yaw (s : State) : (clearErrors s).yaw = s.yaw := rfl
@[simp] theorem clearErrors_iscale (s : State) : (clearErrors s).iscale = s.iscale := rfl
@[simp] theorem clearErrors_pscale (s : State) : (clearErrors s).pscale = s.pscale := rfl
@[simp] theorem clearErrors_thrGain (s : State) : (clearErrors s).thrGain = s.thrGain := rfl
@[simp] theorem clearErrors_mixSign (s : State) : (clearErrors s).mixSign = s.mixSign := rfl
@[simp] theorem clearErrors_motorA (s : State) : (clearErrors s).motorA = s.motorA := rfl
@[simp] theorem clearErrors_motorB (s : State) : (clearErrors s).motorB = s.motorB := rfl
@[simp] theorem clearErrors_motorC (s : State) : (clearErrors s).motorC = s.motorC := rfl
@[simp] theorem clearErrors_motorD (s : State) : (clearErrors s).motorD = s.motorD := rfl
@[simp] theorem clearErrors_minPulse (s : State) : (clearErrors s).minPulse = s.minPulse := rfl
@[simp] theorem clearErrors_maxPulse (s : State) : (clearErrors s).maxPulse = s.maxPulse := rfl
@[simp] theorem clearErrors_armPulse (s : State) : (clearErrors s).armPulse = s.armPulse := rfl
@[simp] theorem clearErrors_armRampStep (s : State) : (clearErrors s).armRampStep = s.armRampStep := rfl
@[simp] theorem clearErrors_armThresh (s : State) : (clearErrors s).armThresh = s.armThresh := rfl
@[simp] theorem clearErrors_ramp (s : State) : (clearErrors s).ramp = s.ramp := rfl
@[simp] theorem clearErrors_events (s : State) : (clearErrors s).events = s.events := rfl
@[simp] theorem clearErrors_pending (s : State) : (clearErrors s).pending = s.pending := rfl
@[simp] theorem clearErrors_answers (s : State) : (clearErrors s).answers = s.answers := rfl
@[simp] theorem clearErrors_errCmd (s : State) : (clearErrors s).errCmd = false := rfl
@[simp] theorem clearErrors_errCfg (s : State) : (clearErrors s).errCfg = false := rfl
@[simp] theorem clearErrors_errBus (s : State) : (clearErrors s).errBus = false := rfl
@[simp] theorem clearErrors_errCause (s : State) : (clearErrors s).errCause = .none := rfl
@[simp] theorem clearErrors_errInfo (s : State) : (clearErrors s).errInfo = 0 := rfl

/-! ### emitFrame -/

@[simp] theorem emitFrame_mode (p : Motor → BitVec 16) (s : State) : (emitFrame p s).mode = s.mode := rfl
@[simp] theorem emitFrame_stop (p : Motor → BitVec 16) (s : State) : (emitFrame p s).stop = s.stop := rfl
@[simp] theorem emitFrame_errCmd (p : Motor → BitVec 16) (s : State) : (emitFrame p s).errCmd = s.errCmd := rfl
@[simp] theorem emitFrame_errCfg (p : Motor → BitVec 16) (s : State) : (emitFrame p s).errCfg = s.errCfg := rfl
@[simp] theorem emitFrame_errBus (p : Motor → BitVec 16) (s : State) : (emitFrame p s).errBus = s.errBus := rfl
@[simp] theorem emitFrame_errCause (p : Motor → BitVec 16) (s : State) : (emitFrame p s).errCause = s.errCause := rfl
@[simp] theorem emitFrame_errInfo (p : Motor → BitVec 16) (s : State) : (emitFrame p s).errInfo = s.errInfo := rfl
@[simp] theorem emitFrame_throttle (p : Motor → BitVec 16) (s : State) : (emitFrame p s).throttle = s.throttle := rfl
@[simp] theorem emitFrame_roll (p : Motor → BitVec 16) (s : State) : (emitFrame p s).roll = s.roll := rfl
@[simp] theorem emitFrame_pitch (p : Motor → BitVec 16) (s : State) : (emitFrame p s).pitch = s.pitch := rfl
@[simp] theorem emitFrame_yaw (p : Motor → BitVec 16) (s : State) : (emitFrame p s).yaw = s.yaw := rfl
@[simp] theorem emitFrame_iscale (p : Motor → BitVec 16) (s : State) : (emitFrame p s).iscale = s.iscale := rfl
@[simp] theorem emitFrame_pscale (p : Motor → BitVec 16) (s : State) : (emitFrame p s).pscale = s.pscale := rfl
@[simp] theorem emitFrame_thrGain (p : Motor → BitVec 16) (s : State) : (emitFrame p s).thrGain = s.thrGain := rfl
@[simp] theorem emitFrame_mixSign (p : Motor → BitVec 16) (s : State) : (emitFrame p s).mixSign = s.mixSign := rfl
@[simp] theorem emitFrame_minPulse (p : Motor → BitVec 16) (s : State) : (emitFrame p s).minPulse = s.minPulse := rfl
@[simp] theorem emitFrame_maxPulse (p : Motor → BitVec 16) (s : State) : (emitFrame p s).maxPulse = s.maxPulse := rfl
@[simp] theorem emitFrame_armPulse (p : Motor → BitVec 16) (s : State) : (emitFrame p s).armPulse = s.armPulse := rfl
@[simp] theorem emitFrame_armRampStep (p : Motor → BitVec 16) (s : State) : (emitFrame p s).armRampStep = s.armRampStep := rfl
@[simp] theorem emitFrame_armThresh (p : Motor → BitVec 16) (s : State) : (emitFrame p s).armThresh = s.armThresh := rfl
@[simp] theorem emitFrame_ramp (p : Motor → BitVec 16) (s : State) : (emitFrame p s).ramp = s.ramp := rfl
@[simp] theorem emitFrame_pending (p : Motor → BitVec 16) (s : State) : (emitFrame p s).pending = s.pending := rfl
@[simp] theorem emitFrame_answers (p : Motor → BitVec 16) (s : State) : (emitFrame p s).answers = s.answers := rfl
@[simp] theorem emitFrame_motorA (p : Motor → BitVec 16) (s : State) :
    (emitFrame p s).motorA = ⟨s.motorA.offset, p .a⟩ := rfl
@[simp] theorem emitFrame_motorB (p : Motor → BitVec 16) (s : State) :
    (emitFrame p s).motorB = ⟨s.motorB.offset, p .b⟩ := rfl
@[simp] theorem emitFrame_motorC (p : Motor → BitVec 16) (s : State) :
    (emitFrame p s).motorC = ⟨s.motorC.offset, p .c⟩ := rfl
@[simp] theorem emitFrame_motorD (p : Motor → BitVec 16) (s : State) :
    (emitFrame p s).motorD = ⟨s.motorD.offset, p .d⟩ := rfl
@[simp] theorem emitFrame_events (p : Motor → BitVec 16) (s : State) :
    (emitFrame p s).events = s.events ++ frame p := rfl

/-! ### pidPhase -/

@[simp] theorem pidPhase_mode (s : State) : (pidPhase s).mode = s.mode := rfl
@[simp] theorem pidPhase_stop (s : State) : (pidPhase s).stop = s.stop := rfl
@[simp] theorem pidPhase_errCmd (s : State) : (pidPhase s).errCmd = s.errCmd := rfl
@[simp] theorem pidPhase_errCfg (s : State) : (pidPhase s).errCfg = s.errCfg := rfl
@[simp] theorem pidPhase_errBus (s : State) : (pidPhase s).errBus = s.errBus := rfl
@[simp] theorem pidPhase_errCause (s : State) : (pidPhase s).errCause = s.errCause := rfl
@[simp] theorem pidPhase_errInfo (s : State) : (pidPhase s).errInfo = s.errInfo := rfl
@[simp] theorem pidPhase_throttle (s : State) : (pidPhase s).throttle = s.throttle := rfl
@[simp] theorem pidPhase_iscale (s : State) : (pidPhase s).iscale = s.iscale := rfl
@[simp] theorem pidPhase_pscale (s : State) : (pidPhase s).pscale = s.pscale := rfl
@[simp] theorem pidPhase_thrGain (s : State) : (pidPhase s).thrGain = s.thrGain := rfl
@[simp] theorem pidPhase_mixSign (s : State) : (pidPhase s).mixSign = s.mixSign := rfl
@[simp] theorem pidPhase_motorA (s : State) : (pidPhase s).motorA = s.motorA := rfl
@[simp] theorem pidPhase_motorB (s : State) : (pidPhase s).motorB = s.motorB := rfl
@[simp] theorem pidPhase_motorC (s : State) : (pidPhase s).motorC = s.motorC := rfl
@[simp] theorem pidPhase_motorD (s : State) : (pidPhase s).motorD = s.motorD := rfl
@[simp] theorem pidPhase_minPulse (s : State) : (pidPhase s).minPulse = s.minPulse := rfl
@[simp] theorem pidPhase_maxPulse (s : State) : (pidPhase s).maxPulse = s.maxPulse := rfl
@[simp] theorem pidPhase_armPulse (s : State) : (pidPhase s).armPulse = s.armPulse := rfl
@[simp] theorem pidPhase_armRampStep (s : State) : (pidPhase s).armRampStep = s.armRampStep := rfl
@[simp] theorem pidPhase_armThresh (s : State) : (pidPhase s).armThresh = s.armThresh := rfl
@[simp] theorem pidPhase_ramp (s : State) : (pidPhase s).ramp = s.ramp := rfl
@[simp] theorem pidPhase_events (s : State) : (pidPhase s).events = s.events := rfl
@[simp] theorem pidPhase_pending (s : State) : (pidPhase s).pending = s.pending := rfl
@[simp] theorem pidPhase_answers (s : State) : (pidPhase s).answers = s.answers := rfl
@[simp] theorem pidPhase_roll (s : State) : (pidPhase s).roll = pidAxisRegs s .roll := rfl
@[simp] theorem pidPhase_pitch (s : State) : (pidPhase s).pitch = pidAxisRegs s .pitch := rfl
@[simp] theorem pidPhase_yaw (s : State) : (pidPhase s).yaw = pidAxisRegs s .yaw := rfl

/-! ### setAxis and setMotor -/

@[simp] theorem setAxis_mode (a : Axis) (x : AxisRegs) (s : State) : (setAxis a x s).mode = s.mode := by
  cases a <;> rfl
@[simp] theorem setAxis_stop (a : Axis) (x : AxisRegs) (s : State) : (setAxis a x s).stop = s.stop := by
  cases a <;> rfl
@[simp] theorem setAxis_errCmd (a : Axis) (x : AxisRegs) (s : State) : (setAxis a x s).errCmd = s.errCmd := by
  cases a <;> rfl
@[simp] theorem setAxis_errCfg (a : Axis) (x : AxisRegs) (s : State) : (setAxis a x s).errCfg = s.errCfg := by
  cases a <;> rfl
@[simp] theorem setAxis_errBus (a : Axis) (x : AxisRegs) (s : State) : (setAxis a x s).errBus = s.errBus := by
  cases a <;> rfl
@[simp] theorem setAxis_errCause (a : Axis) (x : AxisRegs) (s : State) : (setAxis a x s).errCause = s.errCause := by
  cases a <;> rfl
@[simp] theorem setAxis_errInfo (a : Axis) (x : AxisRegs) (s : State) : (setAxis a x s).errInfo = s.errInfo := by
  cases a <;> rfl
@[simp] theorem setAxis_throttle (a : Axis) (x : AxisRegs) (s : State) : (setAxis a x s).throttle = s.throttle := by
  cases a <;> rfl
@[simp] theorem setAxis_iscale (a : Axis) (x : AxisRegs) (s : State) : (setAxis a x s).iscale = s.iscale := by
  cases a <;> rfl
@[simp] theorem setAxis_pscale (a : Axis) (x : AxisRegs) (s : State) : (setAxis a x s).pscale = s.pscale := by
  cases a <;> rfl
@[simp] theorem setAxis_thrGain (a : Axis) (x : AxisRegs) (s : State) : (setAxis a x s).thrGain = s.thrGain := by
  cases a <;> rfl
@[simp] theorem setAxis_mixSign (a : Axis) (x : AxisRegs) (s : State) : (setAxis a x s).mixSign = s.mixSign := by
  cases a <;> rfl
@[simp] theorem setAxis_motorA (a : Axis) (x : AxisRegs) (s : State) : (setAxis a x s).motorA = s.motorA := by
  cases a <;> rfl
@[simp] theorem setAxis_motorB (a : Axis) (x : AxisRegs) (s : State) : (setAxis a x s).motorB = s.motorB := by
  cases a <;> rfl
@[simp] theorem setAxis_motorC (a : Axis) (x : AxisRegs) (s : State) : (setAxis a x s).motorC = s.motorC := by
  cases a <;> rfl
@[simp] theorem setAxis_motorD (a : Axis) (x : AxisRegs) (s : State) : (setAxis a x s).motorD = s.motorD := by
  cases a <;> rfl
@[simp] theorem setAxis_minPulse (a : Axis) (x : AxisRegs) (s : State) : (setAxis a x s).minPulse = s.minPulse := by
  cases a <;> rfl
@[simp] theorem setAxis_maxPulse (a : Axis) (x : AxisRegs) (s : State) : (setAxis a x s).maxPulse = s.maxPulse := by
  cases a <;> rfl
@[simp] theorem setAxis_armPulse (a : Axis) (x : AxisRegs) (s : State) : (setAxis a x s).armPulse = s.armPulse := by
  cases a <;> rfl
@[simp] theorem setAxis_armRampStep (a : Axis) (x : AxisRegs) (s : State) : (setAxis a x s).armRampStep = s.armRampStep := by
  cases a <;> rfl
@[simp] theorem setAxis_armThresh (a : Axis) (x : AxisRegs) (s : State) : (setAxis a x s).armThresh = s.armThresh := by
  cases a <;> rfl
@[simp] theorem setAxis_ramp (a : Axis) (x : AxisRegs) (s : State) : (setAxis a x s).ramp = s.ramp := by
  cases a <;> rfl
@[simp] theorem setAxis_events (a : Axis) (x : AxisRegs) (s : State) : (setAxis a x s).events = s.events := by
  cases a <;> rfl
@[simp] theorem setAxis_pending (a : Axis) (x : AxisRegs) (s : State) : (setAxis a x s).pending = s.pending := by
  cases a <;> rfl
@[simp] theorem setAxis_answers (a : Axis) (x : AxisRegs) (s : State) : (setAxis a x s).answers = s.answers := by
  cases a <;> rfl
@[simp] theorem setMotor_mode (m : Motor) (x : MotorRegs) (s : State) : (setMotor m x s).mode = s.mode := by
  cases m <;> rfl
@[simp] theorem setMotor_stop (m : Motor) (x : MotorRegs) (s : State) : (setMotor m x s).stop = s.stop := by
  cases m <;> rfl
@[simp] theorem setMotor_errCmd (m : Motor) (x : MotorRegs) (s : State) : (setMotor m x s).errCmd = s.errCmd := by
  cases m <;> rfl
@[simp] theorem setMotor_errCfg (m : Motor) (x : MotorRegs) (s : State) : (setMotor m x s).errCfg = s.errCfg := by
  cases m <;> rfl
@[simp] theorem setMotor_errBus (m : Motor) (x : MotorRegs) (s : State) : (setMotor m x s).errBus = s.errBus := by
  cases m <;> rfl
@[simp] theorem setMotor_errCause (m : Motor) (x : MotorRegs) (s : State) : (setMotor m x s).errCause = s.errCause := by
  cases m <;> rfl
@[simp] theorem setMotor_errInfo (m : Motor) (x : MotorRegs) (s : State) : (setMotor m x s).errInfo = s.errInfo := by
  cases m <;> rfl
@[simp] theorem setMotor_throttle (m : Motor) (x : MotorRegs) (s : State) : (setMotor m x s).throttle = s.throttle := by
  cases m <;> rfl
@[simp] theorem setMotor_roll (m : Motor) (x : MotorRegs) (s : State) : (setMotor m x s).roll = s.roll := by
  cases m <;> rfl
@[simp] theorem setMotor_pitch (m : Motor) (x : MotorRegs) (s : State) : (setMotor m x s).pitch = s.pitch := by
  cases m <;> rfl
@[simp] theorem setMotor_yaw (m : Motor) (x : MotorRegs) (s : State) : (setMotor m x s).yaw = s.yaw := by
  cases m <;> rfl
@[simp] theorem setMotor_iscale (m : Motor) (x : MotorRegs) (s : State) : (setMotor m x s).iscale = s.iscale := by
  cases m <;> rfl
@[simp] theorem setMotor_pscale (m : Motor) (x : MotorRegs) (s : State) : (setMotor m x s).pscale = s.pscale := by
  cases m <;> rfl
@[simp] theorem setMotor_thrGain (m : Motor) (x : MotorRegs) (s : State) : (setMotor m x s).thrGain = s.thrGain := by
  cases m <;> rfl
@[simp] theorem setMotor_mixSign (m : Motor) (x : MotorRegs) (s : State) : (setMotor m x s).mixSign = s.mixSign := by
  cases m <;> rfl
@[simp] theorem setMotor_minPulse (m : Motor) (x : MotorRegs) (s : State) : (setMotor m x s).minPulse = s.minPulse := by
  cases m <;> rfl
@[simp] theorem setMotor_maxPulse (m : Motor) (x : MotorRegs) (s : State) : (setMotor m x s).maxPulse = s.maxPulse := by
  cases m <;> rfl
@[simp] theorem setMotor_armPulse (m : Motor) (x : MotorRegs) (s : State) : (setMotor m x s).armPulse = s.armPulse := by
  cases m <;> rfl
@[simp] theorem setMotor_armRampStep (m : Motor) (x : MotorRegs) (s : State) : (setMotor m x s).armRampStep = s.armRampStep := by
  cases m <;> rfl
@[simp] theorem setMotor_armThresh (m : Motor) (x : MotorRegs) (s : State) : (setMotor m x s).armThresh = s.armThresh := by
  cases m <;> rfl
@[simp] theorem setMotor_ramp (m : Motor) (x : MotorRegs) (s : State) : (setMotor m x s).ramp = s.ramp := by
  cases m <;> rfl
@[simp] theorem setMotor_events (m : Motor) (x : MotorRegs) (s : State) : (setMotor m x s).events = s.events := by
  cases m <;> rfl
@[simp] theorem setMotor_pending (m : Motor) (x : MotorRegs) (s : State) : (setMotor m x s).pending = s.pending := by
  cases m <;> rfl
@[simp] theorem setMotor_answers (m : Motor) (x : MotorRegs) (s : State) : (setMotor m x s).answers = s.answers := by
  cases m <;> rfl

/-! ### axisOf and motorOf -/

@[simp] theorem axisOf_setAxis_same (a : Axis) (x : AxisRegs) (s : State) : axisOf (setAxis a x s) a = x := by
  cases a <;> rfl
theorem axisOf_setAxis_ne (a b : Axis) (x : AxisRegs) (s : State) (h : a ≠ b) :
    axisOf (setAxis a x s) b = axisOf s b := by
  cases a <;> cases b <;> first | rfl | exact absurd rfl h
@[simp] theorem axisOf_setMotor (m : Motor) (x : MotorRegs) (s : State) (a : Axis) :
    axisOf (setMotor m x s) a = axisOf s a := by
  cases m <;> cases a <;> rfl
@[simp] theorem axisOf_raiseError (c : ErrorCause) (i : Word) (s : State) (a : Axis) :
    axisOf (raiseError c i s) a = axisOf s a := by
  cases a <;> rfl
@[simp] theorem axisOf_clearErrors (s : State) (a : Axis) : axisOf (clearErrors s) a = axisOf s a := by
  cases a <;> rfl
@[simp] theorem axisOf_emitFrame (p : Motor → BitVec 16) (s : State) (a : Axis) :
    axisOf (emitFrame p s) a = axisOf s a := by
  cases a <;> rfl
@[simp] theorem axisOf_pidPhase (s : State) (a : Axis) : axisOf (pidPhase s) a = pidAxisRegs s a := by
  cases a <;> rfl
@[simp] theorem axisOf_resetBlock (s : State) (a : Axis) : axisOf (resetBlock s) a = AxisRegs.reset := by
  cases a <;> rfl

@[simp] theorem motorOf_setMotor_same (m : Motor) (x : MotorRegs) (s : State) : motorOf (setMotor m x s) m = x := by
  cases m <;> rfl
theorem motorOf_setMotor_ne (m n : Motor) (x : MotorRegs) (s : State) (h : m ≠ n) :
    motorOf (setMotor m x s) n = motorOf s n := by
  cases m <;> cases n <;> first | rfl | exact absurd rfl h
@[simp] theorem motorOf_setAxis (a : Axis) (x : AxisRegs) (s : State) (m : Motor) :
    motorOf (setAxis a x s) m = motorOf s m := by
  cases a <;> cases m <;> rfl
@[simp] theorem motorOf_raiseError (c : ErrorCause) (i : Word) (s : State) (m : Motor) :
    motorOf (raiseError c i s) m = motorOf s m := by
  cases m <;> rfl
@[simp] theorem motorOf_clearErrors (s : State) (m : Motor) : motorOf (clearErrors s) m = motorOf s m := by
  cases m <;> rfl
@[simp] theorem motorOf_emitFrame (p : Motor → BitVec 16) (s : State) (m : Motor) :
    motorOf (emitFrame p s) m = ⟨(motorOf s m).offset, p m⟩ := by
  cases m <;> rfl
@[simp] theorem motorOf_pidPhase (s : State) (m : Motor) : motorOf (pidPhase s) m = motorOf s m := by
  cases m <;> rfl
@[simp] theorem motorOf_resetBlock (s : State) (m : Motor) : motorOf (resetBlock s) m = MotorRegs.reset := by
  cases m <;> rfl

/-! ### resetBlock -/

@[simp] theorem resetBlock_events (s : State) : (resetBlock s).events = s.events := rfl
@[simp] theorem resetBlock_pending (s : State) : (resetBlock s).pending = s.pending := rfl
@[simp] theorem resetBlock_answers (s : State) : (resetBlock s).answers = s.answers := rfl
@[simp] theorem resetBlock_mode (s : State) : (resetBlock s).mode = .idle := rfl
@[simp] theorem resetBlock_stop (s : State) : (resetBlock s).stop = false := rfl

end Sys2Proof.Machine
end

