-- ==== Sys2Proof/Laws/Window.lean ====
section
/-! SUPPORT. The register window: names and offsets, what a store leaves alone, and what a write to the window can do. -/

namespace Sys2Proof.Machine

theorem slotAt_offsetOf (r : Reg) : slotAt (offsetOf r) = some r := by
  rcases r with _ | _ | _ | _ | a | a | a | a | a | a | _ | _ | _ | _ | m | _ | _ | _ | _ | _ | a | _ | a | a | m <;>
    first | rfl | (cases a <;> rfl) | (cases m <;> rfl)

theorem aligned_offsetOf (r : Reg) : aligned (offsetOf r) = true := by
  rcases r with _ | _ | _ | _ | a | a | a | a | a | a | _ | _ | _ | _ | m | _ | _ | _ | _ | _ | a | _ | a | a | m <;>
    first | rfl | (cases a <;> rfl) | (cases m <;> rfl)

set_option maxRecDepth 4096 in
/-- An address with a slot is the offset of the register in it. -/
theorem offsetOf_of_slotAt : ∀ (addr : Addr) (r : Reg), slotAt addr = some r → offsetOf r = addr := by
  have h : ∀ addr : Addr, ((slotAt addr).all fun r => decide (offsetOf r = addr)) = true := by decide
  intro addr r hr
  have := h addr
  rw [hr] at this
  simpa using this

/-- A read of a register's own offset is the read form of that register. -/
@[simp] theorem memRead_offsetOf (r : Reg) (s : State) : memRead (offsetOf r) s = readReg r s := by
  simp [memRead, aligned_offsetOf, slotAt_offsetOf]

/-- A write to a register's own offset goes by that register's access. -/
@[simp] theorem memWrite_offsetOf (r : Reg) (w : Word) (s : State) :
    memWrite (offsetOf r) w s = writeReg (offsetOf r) r w s := by
  simp [memWrite, aligned_offsetOf, slotAt_offsetOf]

/-- Two states that agree on the read form of every register outside a list agree on every address outside it. -/
theorem memRead_congr {s t : State} {rs : List Reg} (h : ∀ r, r ∉ rs → readReg r t = readReg r s) {addr : Addr}
    (ha : outside rs addr) : memRead addr t = memRead addr s := by
  unfold memRead
  split
  · rfl
  · split
    · rfl
    · rename_i r hr
      exact h r fun hm => ha r hm hr

/-- A register reads the same whatever the port's history and the host's side of the bus are. -/
@[simp] theorem readReg_host (r : Reg) (s : State) (e : List Event) (p : List HostAction) (a : List Word) :
    readReg r { s with events := e, pending := p, answers := a } = readReg r s := by
  cases r <;> rfl

@[simp] theorem memRead_host (addr : Addr) (s : State) (e : List Event) (p : List HostAction) (a : List Word) :
    memRead addr { s with events := e, pending := p, answers := a } = memRead addr s := by
  simp [memRead]

/-- What raising an error leaves readable: everything but STATUS and ERR_INFO. -/
theorem readReg_raiseError (c : ErrorCause) (i : Word) (s : State) {r : Reg} (h1 : r ≠ .status) (h2 : r ≠ .errInfo) :
    readReg r (raiseError c i s) = readReg r s := by
  cases r <;> simp_all [readReg]

/-- What storing to one register leaves readable: every other register. -/
theorem readReg_storeReg (q : Reg) (w : Word) (s : State) {r : Reg} (h : r ≠ q) :
    readReg r (storeReg q w s) = readReg r s := by
  rcases q with _ | _ | _ | _ | a | a | a | a | a | a | _ | _ | _ | _ | m | _ | _ | _ | _ | _ | a | _ | a | a | m <;>
    rcases r with _ | _ | _ | _ | b | b | b | b | b | b | _ | _ | _ | _ | n | _ | _ | _ | _ | _ | b | _ | b | b | n <;>
    first
      | rfl
      | exact absurd rfl h
      | (cases a <;> first | rfl | (cases b <;> first | rfl | exact absurd rfl h))
      | (cases m <;> first | rfl | (cases n <;> first | rfl | exact absurd rfl h))

end Sys2Proof.Machine
end

