-- ==== Sys2Proof/Laws/Step.lean ====
section
/-! SUPPORT. What a step can do, said once: one inversion lemma for a command, one for a bus write, one for a step. -/

namespace Sys2Proof.Machine

/-- A word that decodes to a command is that command's word. -/
theorem eq_encode_of_decode {w : Word} {i : Instr} (h : decode w = .command i) : w = encode i := by
  unfold decode at h
  split at h
  · cases h
  rename_i hr
  have hr : reservedField w = 0 := by simpa using hr
  have hw : w = (0 : BitVec 24) ++ opcodeField w := by
    rw [← hr]
    apply BitVec.eq_of_getLsbD_eq
    intro j hj
    simp only [reservedField, opcodeField, BitVec.getLsbD_append, BitVec.getLsbD_extractLsb']
    split
    · simp [*]
    · rename_i h8
      rw [show 8 + (j - 8) = j from by omega]
      simp; omega
  split at h
  · rename_i j hj
    have hij : j = i := by simpa using h
    subst hij
    have ho : opcodeField w = opcode j := by
      unfold commandOfOpcode at hj
      split at hj <;> first
        | (cases hj; apply BitVec.eq_of_toNat_eq; simpa [opcode] using ‹(opcodeField w).toNat = _›)
        | cases hj
    rw [hw, ho]
    rfl
  · cases h

/-- Everything a command can do. -/
theorem exec_cases {i : Instr} {s t : State} (h : exec i s = .next t) :
    (i = .nop ∧ t = s) ∨
    (i = .tick ∧ s.mode = .armed ∧ t = emitFrame (tickPulse s) (pidPhase s)) ∨
    (i = .armBegin ∧ s.mode = .idle ∧ t = { s with ramp := rampStart s, mode := .arming }) ∨
    (i = .armBegin ∧ s.mode = .arming ∧ t = s) ∨
    (i = .armStep ∧ s.mode = .arming ∧ armExit s = true ∧ t = { s with throttle := 0, mode := .armed }) ∨
    (i = .armStep ∧ s.mode = .arming ∧ armExit s = false ∧ t = rampOutputStep s) ∨
    (i = .stopSet ∧ t = { s with stop := true }) ∨
    (i = .stopClr ∧ t = { s with stop := false }) ∨
    (i = .errClr ∧ t = clearErrors s) ∨
    ((i = .tick ∨ i = .armBegin ∨ i = .armStep) ∧ t = raiseError .cmdMode (encode i) s) := by
  cases i <;>
    simp only [exec, execNop, execTick, execArmBegin, execArmStep, execStopSet, execStopClr, execErrClr] at h
  case nop => cases h; simp
  case stopSet => cases h; simp
  case stopClr => cases h; simp
  case errClr => cases h; simp
  case tick => split at h <;> cases h <;> simp [*]
  case armBegin => split at h <;> cases h <;> simp [*]
  case armStep =>
    split at h
    · split at h <;> cases h <;> simp_all
    · cases h; simp
    · cases h; simp

/-- Everything a bus write can do: an error, a store to a register that takes one, or the command it issues. -/
theorem memWrite_cases {addr : Addr} {w : Word} {s t : State} (h : memWrite addr w s = .next t) :
    (∃ c info, c ≠ .none ∧ t = raiseError c info s) ∨
    (∃ r, addr = offsetOf r ∧ (accessOf r = .readWrite ∨ accessOf r = .config ∧ s.mode = .idle) ∧
      t = storeReg r w s) ∨
    (∃ i, addr = 0x00 ∧ w = encode i ∧ exec i s = .next t) := by
  unfold memWrite at h
  split at h
  · cases h; exact .inl ⟨_, _, by decide, rfl⟩
  split at h
  · cases h; exact .inl ⟨_, _, by decide, rfl⟩
  rename_i r hr
  have ha := offsetOf_of_slotAt _ _ hr
  unfold writeReg at h
  split at h
  · cases h; exact .inl ⟨_, _, by decide, rfl⟩
  · rename_i hacc
    have h0 : addr = 0x00 := by
      rw [← ha]
      cases r <;> simp_all [accessOf, offsetOf]
    unfold execute at h
    split at h
    · rename_i i hi
      exact .inr (.inr ⟨i, h0, eq_encode_of_decode hi, h⟩)
    · cases h; exact .inl ⟨_, _, by decide, rfl⟩
    · cases h; exact .inl ⟨_, _, by decide, rfl⟩
  · cases h
    exact .inr (.inl ⟨r, ha.symm, .inl ‹_›, rfl⟩)
  · split at h
    · cases h
      exact .inr (.inl ⟨r, ha.symm, .inr ⟨‹_›, ‹_›⟩, rfl⟩)
    · cases h; exact .inl ⟨_, _, by decide, rfl⟩

/-- Everything a step can do with the host's next action. -/
theorem step_cases {s t : State} {act : HostAction} {rest : List HostAction} (hp : s.pending = act :: rest)
    (h : step s = .next t) :
    (∃ addr, act = .bus (.read addr) ∧
      t = { s with pending := rest, answers := s.answers ++ [memRead addr { s with pending := rest }] }) ∨
    (∃ addr w, act = .bus (.write addr w) ∧ memWrite addr w { s with pending := rest } = .next t) ∨
    (isReset act = true ∧ t = resetBlock { s with pending := rest }) := by
  simp only [step, hp, perform] at h
  split at h
  · cases h; exact .inl ⟨_, rfl, rfl⟩
  · exact .inr (.inl ⟨_, _, rfl, h⟩)
  · cases h; exact .inr (.inr ⟨rfl, rfl⟩)
  · cases h; exact .inr (.inr ⟨rfl, rfl⟩)

/-- With no action waiting a step changes nothing. -/
theorem step_waiting {s : State} (hp : s.pending = []) : step s = .next s := by
  simp [step, hp]

/-- The host's list is not the block's: a bus write leaves it alone. -/
theorem memWrite_pending {addr : Addr} {w : Word} {s t : State} (h : memWrite addr w s = .next t) :
    t.pending = s.pending := by
  rcases memWrite_cases h with ⟨c, i, -, rfl⟩ | ⟨r, -, -, rfl⟩ | ⟨i, -, -, h⟩
  · rfl
  · cases r <;> simp [storeReg]
  · rcases exec_cases h with ⟨-, rfl⟩ | ⟨-, -, rfl⟩ | ⟨-, -, rfl⟩ | ⟨-, -, rfl⟩ | ⟨-, -, -, rfl⟩ | ⟨-, -, -, rfl⟩ |
      ⟨-, rfl⟩ | ⟨-, rfl⟩ | ⟨-, rfl⟩ | ⟨-, rfl⟩ <;> rfl

/-- A step takes exactly one action off the host's list. -/
theorem step_pending {s t : State} {act : HostAction} {rest : List HostAction} (hp : s.pending = act :: rest)
    (h : step s = .next t) : t.pending = rest := by
  rcases step_cases hp h with ⟨_, -, rfl⟩ | ⟨_, _, -, h⟩ | ⟨-, rfl⟩
  · rfl
  · exact memWrite_pending h
  · rfl

end Sys2Proof.Machine
end

