-- ==== Sys2Proof/Laws/Commands.lean ====
section
/-! SUPPORT. One law per shared operation of the commands: what its value is, in the terms of the rules, and what it
leaves readable. The statements cite these and need not unfold the operations. -/

namespace Sys2Proof.Machine

/-! ## Command words -/

theorem reservedField_ne_zero_iff (w : Word) : reservedField w ≠ 0 ↔ 256 ≤ w.toNat := by
  have hw := w.isLt
  rw [← not_lt, not_iff_not]
  constructor
  · intro h
    have := congrArg BitVec.toNat h
    simp [reservedField, BitVec.extractLsb'_toNat, Nat.shiftRight_eq_div_pow] at this
    omega
  · intro h
    apply BitVec.eq_of_toNat_eq
    simp [reservedField, BitVec.extractLsb'_toNat, Nat.shiftRight_eq_div_pow]
    omega

theorem opcodeField_toNat (w : Word) : (opcodeField w).toNat = w.toNat % 256 := by simp [opcodeField]

theorem commandOfOpcode_eq_none_iff : ∀ b : BitVec 8, commandOfOpcode b = none ↔ 7 ≤ b.toNat := by decide

/-- A write to CMD runs the word. -/
theorem memWrite_cmd (w : Word) (s : State) : memWrite 0x00 w s = execute w s := rfl

/-! ## Frames -/

theorem unchangedExcept_of_readReg {rs : List Reg} {s t : State} (h : ∀ r, r ∉ rs → readReg r t = readReg r s)
    (hp : t.pending = s.pending) (ha : t.answers = s.answers) : unchangedExcept rs s t :=
  ⟨fun _ h' => memRead_congr h h', hp, ha⟩

theorem unchangedExcept_raiseError (c : ErrorCause) (info : Word) (s : State) :
    unchangedExcept [.status, .errInfo] s (raiseError c info s) := by
  refine unchangedExcept_of_readReg (fun r hr => ?_) rfl rfl
  simp only [List.mem_cons, List.not_mem_nil, or_false, not_or] at hr
  exact readReg_raiseError _ _ _ hr.1 hr.2

theorem unchangedExcept_storeReg (r : Reg) (w : Word) (s : State) : unchangedExcept [r] s (storeReg r w s) := by
  refine unchangedExcept_of_readReg (fun q hq => readReg_storeReg _ _ _ (by simpa using hq)) ?_ ?_ <;>
    cases r <;> simp [storeReg]

/-- No store of the host touches MODE, STOP, the error record or the events. -/
theorem storeReg_keeps (r : Reg) (w : Word) (s : State) :
    (storeReg r w s).mode = s.mode ∧ (storeReg r w s).stop = s.stop ∧ (storeReg r w s).events = s.events ∧
    (storeReg r w s).errCmd = s.errCmd ∧ (storeReg r w s).errCfg = s.errCfg ∧ (storeReg r w s).errBus = s.errBus ∧
    (storeReg r w s).errCause = s.errCause ∧ (storeReg r w s).errInfo = s.errInfo := by
  cases r <;> simp [storeReg]

/-! ## TICK -/

theorem exec_tick_armed {s : State} (h : s.mode = .armed) :
    exec .tick s = .next (emitFrame (tickPulse s) (pidPhase s)) := by simp [exec, execTick, h]

theorem abs_pidError_le (s : State) (a : Axis) : |pidError s a| ≤ 2 ^ 24 - 1 := by
  have h1 := toInt_bounds (axisOf s a).meas
  have h2 := toInt_bounds (axisOf s a).sp
  rw [pidError, abs_le]
  norm_num at *
  omega

theorem pidIntegral_within (s : State) (a : Axis) :
    -((axisOf s a).maxi.toNat : Int) ≤ pidIntegral s a ∧ pidIntegral s a ≤ (axisOf s a).maxi.toNat :=
  ⟨lower_le_clamp (by omega), clamp_le_upper _ _ _⟩

theorem clamp_pulse_range (v : Int) (lo hi : BitVec 16) :
    0 ≤ clamp v lo.toNat hi.toNat ∧ clamp v lo.toNat hi.toNat ≤ 65535 := by
  have := lo.isLt
  have := hi.isLt
  unfold clamp
  omega

theorem tickPulse_of_running {s : State} (h : s.stop = false) (m : Motor) :
    ((tickPulse s m).toNat : Int) = clampedMix s m := by
  have hc := clamp_pulse_range (mix s m) s.minPulse s.maxPulse
  rw [tickPulse, h, clampedMix]
  exact toNat_pulse hc.1 hc.2

theorem tickPulse_of_stopped {s : State} (h : s.stop = true) (m : Motor) : tickPulse s m = s.minPulse := by
  simp [tickPulse, h]

theorem baseThrottle_nonneg (s : State) : 0 ≤ baseThrottle s := tdiv_nonneg _ (by positivity)

/-! ## Arming -/

theorem rampStart_toNat (s : State) : ((rampStart s).toNat : Int) = min (baseThrottle s) s.armPulse.toNat := by
  have := baseThrottle_nonneg s
  have := s.armPulse.isLt
  exact toNat_pulse (by omega) (by omega)

theorem rampPulse_toNat (s : State) : (rampPulse s).toNat = min s.ramp.toNat s.maxPulse.toNat := by
  have := s.ramp.isLt
  simp [rampPulse]
  omega

theorem rampNext_toNat (s : State) :
    (rampNext s).toNat = min (s.ramp.toNat + s.armRampStep.toNat) s.armPulse.toNat := by
  have := s.armPulse.isLt
  simp [rampNext]
  omega

theorem armExit_iff (s : State) : armExit s = true ↔ (s.armThresh.toNat : Int) < |s.roll.sp.toInt| := by
  rw [Int.abs_eq_natAbs, armExit, decide_eq_true_iff]
  exact_mod_cast Iff.rfl

theorem exec_armStep_exit {s : State} (h : s.mode = .arming) (hx : armExit s = true) :
    exec .armStep s = .next { s with throttle := 0, mode := .armed } := by simp [exec, execArmStep, h, hx]

theorem exec_armStep_drive {s : State} (h : s.mode = .arming) (hx : armExit s = false) :
    exec .armStep s = .next (rampOutputStep s) := by simp [exec, execArmStep, h, hx]

/-! ## The n-bit datapath -/

/-- A value below 2^49 in magnitude is kept by reduction to a signed width of 50 bits or more. -/
theorem bmod_of_fits {n : Nat} (hn : 50 ≤ n) {v : Int} (h : |v| < 2 ^ 49) : v.bmod (2 ^ n) = v := by
  have h1 : (2 ^ 49 : Int) ≤ 2 ^ (n - 1) := pow_le_pow_right₀ (by norm_num) (by omega)
  have h2 : ((2 ^ n : Nat) : Int) = 2 * 2 ^ (n - 1) := by
    push_cast
    rw [← pow_succ']
    congr 1
    omega
  rw [abs_lt] at h
  refine Int.bmod_eq_of_le ?_ ?_ <;> omega

theorem fx_toInt {n : Nat} (hn : 50 ≤ n) {v : Int} (h : |v| < 2 ^ 49) : (fx n v).toInt = v := by
  rw [fx, BitVec.toInt_ofInt, bmod_of_fits hn h]

/-- The clamp by signed comparisons is the clamp of the signed values. -/
theorem fxClamp_toInt {n : Nat} (v lo hi : BitVec n) :
    (fxClamp v lo hi).toInt = clamp v.toInt lo.toInt hi.toInt := by
  unfold fxClamp clamp
  simp only [BitVec.slt_eq_decide, decide_eq_true_eq]
  split <;> split <;> omega

end Sys2Proof.Machine
end

