-- ==== Sys2Proof/Laws/PerInstr.lean ====
section
/-! SUPPORT. Statements made of every command, one lemma per constructor. -/

namespace Sys2Proof.Laws.RoundTrip

/-- R101, R103: the word of the command has a zero reserved field and decodes to the command. -/
def Statement (i : Instr) : Prop :=
  reservedField (encode i) = 0 ∧ opcodeField (encode i) = opcode i ∧ decode (encode i) = .command i

theorem nop : Statement .nop := ⟨rfl, rfl, rfl⟩
theorem tick : Statement .tick := ⟨rfl, rfl, rfl⟩
theorem armBegin : Statement .armBegin := ⟨rfl, rfl, rfl⟩
theorem armStep : Statement .armStep := ⟨rfl, rfl, rfl⟩
theorem stopSet : Statement .stopSet := ⟨rfl, rfl, rfl⟩
theorem stopClr : Statement .stopClr := ⟨rfl, rfl, rfl⟩
theorem errClr : Statement .errClr := ⟨rfl, rfl, rfl⟩

end Sys2Proof.Laws.RoundTrip
end

