-- ==== Sys2Proof/Machine/HostDuties.lean ====
section
/-! DEFINITION. The host's side as spec/70_reset_and_hazards.md R254 to R257 has it: the actions of the boot sequence,
of an arming pass and of a round of the control loop, and the configuration duties. The block checks none of them: any
list of actions may stand in `pending`, and the rules say what each does. -/

namespace Sys2Proof.Machine

/-- The host writes a value to a register by name. -/
def hostWrite (r : Reg) (v : Int) : HostAction := .bus (.write (offsetOf r) (word32 v))

/-- The host issues a command (R100). -/
def hostCommand (i : Instr) : HostAction := .bus (.write 0x00 (encode i))

/-- R254, steps 1 to 4: reset, the configuration, THROTTLE and SP_ROLL, ARM_BEGIN. -/
def bootActions (config : List (Reg × Int)) (throttle spRoll : Int) : List HostAction :=
  .reset none :: config.map (fun row => hostWrite row.1 row.2)
    ++ [hostWrite .throttle throttle, hostWrite (.sp .roll) spRoll, hostCommand .armBegin]

/-- R254, step 5: one arming pass, after SP_ROLL is written when a packet was delivered. -/
def armingPass (roll : Option Int) : List HostAction :=
  (roll.map (hostWrite (.sp .roll))).toList ++ [hostCommand .armStep]

/-- What the Command Decoder delivers (R255): the setpoint, and whether its stop condition was raised (R257). -/
structure Packet where
  roll     : Int
  pitch    : Int
  yaw      : Int
  throttle : Int
  stop     : Bool
deriving DecidableEq, Repr

/-- R255, step 2. -/
def packetActions (p : Packet) : List HostAction :=
  [hostWrite (.sp .roll) p.roll, hostWrite (.sp .pitch) p.pitch, hostWrite (.sp .yaw) p.yaw,
    hostWrite .throttle p.throttle] ++ if p.stop then [hostCommand .stopSet] else []

/-- R255: one round of the control loop. With no packet the setpoint registers keep their values (R239, R261). -/
def controlRound (roll pitch yaw : Int) (packet : Option Packet) : List HostAction :=
  [hostWrite (.meas .roll) roll, hostWrite (.meas .pitch) pitch, hostWrite (.meas .yaw) yaw]
    ++ (packet.map packetActions).getD [] ++ [hostCommand .tick]

/-- R256: the duties on the pulse bounds. The rules hold whether they are kept or not. -/
def pulseDutiesKept (s : State) : Bool := decide (s.minPulse ≤ s.maxPulse ∧ s.armPulse ≤ s.maxPulse)

end Sys2Proof.Machine
end

