-- ==== Sys2Proof/Tests/Slice0.lean ====
section
/-! SUPPORT. The model's own tests: vectors of spec/95_test_vectors.md by their ids, and one witness for each statement
that has hypotheses. -/

namespace Sys2Proof.Tests

open Sys2Proof Sys2Proof.Machine

/-! ## Small states -/

/-- The state a meaning answers with, if it answers a next one. -/
def next? : Host.Outcome State Fault Refusal → Option State
  | .next t    => some t
  | .fault _   => none
  | .refused _ => none

/-- An axis with the gains of R164. -/
def axis164 : AxisRegs := { AxisRegs.reset with kp := 2, ki := 1, kd := 3, maxi := 50000 }

/-- The configuration and inputs of R164, in Armed. -/
def armed164 : State :=
  { State.reset with
    mode := .armed, throttle := 50, roll := { axis164 with sp := 10000 }, pitch := axis164, yaw := axis164,
    iscale := 1000, pscale := 100, thrGain := 1000,
    motorA := ⟨1000, 0⟩, motorB := ⟨1000, 0⟩, motorC := ⟨1000, 0⟩, motorD := ⟨1000, 0⟩,
    minPulse := 1100, maxPulse := 1800 }

/-- Arming with the registers of the table of section 2.5. -/
def arming (ramp : BitVec 16) (sp : BitVec 24) : State :=
  { State.reset with
    mode := .arming, ramp := ramp, roll := { AxisRegs.reset with sp := sp },
    armPulse := 1000, armRampStep := 250, armThresh := 5000, maxPulse := 1800 }

/-- One axis whose TICK is a row of section 2.3, in Armed. -/
def pidRow (meas sp : Int) (integ lastErr kp ki kd : Int) (maxi : BitVec 31) (is ps : BitVec 16) : State :=
  { State.reset with
    mode := .armed, iscale := is, pscale := ps,
    pitch := ⟨.ofInt 24 sp, .ofInt 24 meas, .ofInt 16 kp, .ofInt 16 ki, .ofInt 16 kd, maxi, word32 integ,
      word32 lastErr, 0⟩ }

/-- What a TICK leaves in INTEG_PITCH, LASTERR_PITCH and PIDOUT_PITCH. -/
def pitchAfterTick (s : State) : Option (Int × Int × Word) :=
  (next? (exec .tick s)).map fun t => (t.pitch.integ.toInt, t.pitch.lastErr.toInt, t.pitch.pidOut)

/-- What a write leaves at an offset, in Idle, and whether it was an error. -/
def readAfterWrite (addr : Addr) (w : Word) : Option (Word × Bool) :=
  (next? (memWrite addr w State.reset)).map fun t => (memRead addr t, t.errCause == .none)

/-- STATUS and ERR_INFO after a write. -/
def recordAfter (addr : Addr) (w : Word) (s : State) : Option (Word × Word) :=
  (next? (memWrite addr w s)).map fun t => (memRead 0x04 t, memRead 0x08 t)

/-- The pulse widths of the events a command appends to an empty port. -/
def pulsesOf (i : Instr) (s : State) : Option (List (Nat × Nat)) :=
  (next? (exec i s)).map fun t => t.events.map fun e => (e.ch.val, e.v.toNat)

/-! ## Well-formedness: R107 and R70 -/

theorem test_value_above_range_refused : AsmLine.wellFormed (.wr (.reg .cmd) (2 ^ 32)) = false := by decide
theorem test_value_below_range_refused : AsmLine.wellFormed (.wr (.reg .cmd) (-2 ^ 31 - 1)) = false := by decide
theorem test_value_range_ends_accepted :
    AsmLine.wellFormed (.wr (.reg .cmd) (2 ^ 32 - 1)) = true ∧ AsmLine.wellFormed (.wr (.reg .cmd) (-2 ^ 31)) = true := by
  decide
theorem test_write_offset_outside_window_refused : AsmLine.wellFormed (.wr (.offset 256) 0) = false := by decide
theorem test_read_offset_outside_window_refused :
    AsmLine.wellFormed (.rd (.offset 256)) = false ∧ AsmLine.wellFormed (.rd (.offset 255)) = true := by decide
theorem test_commands_and_reset_lines_well_formed :
    AsmLine.wellFormed .rst = true ∧ allCommands.all (fun i => AsmLine.wellFormed (.pseudo i)) = true := by decide

/-! ## Decoding and encoding: R101 to R109 -/

theorem test_decode_nop : decode 0b00000000000000000000000000000000#32 = .command .nop := by decide
theorem test_decode_tick : decode 0b00000000000000000000000000000001#32 = .command .tick := by decide
theorem test_decode_armBegin : decode 0b00000000000000000000000000000010#32 = .command .armBegin := by decide
theorem test_decode_armStep : decode 0b00000000000000000000000000000011#32 = .command .armStep := by decide
theorem test_decode_stopSet : decode 0b00000000000000000000000000000100#32 = .command .stopSet := by decide
theorem test_decode_stopClr : decode 0b00000000000000000000000000000101#32 = .command .stopClr := by decide
theorem test_decode_errClr : decode 0b00000000000000000000000000000110#32 = .command .errClr := by decide
theorem test_decode_reserved_bit_31 : decode 0x80000001#32 = .illegal .reservedBits := by decide
theorem test_decode_reserved_bit_8 : decode 0x00000106#32 = .illegal .reservedBits := by decide
theorem test_decode_unknown_ends :
    decode 7#32 = .illegal .unknownOpcode ∧ decode 0xFF#32 = .illegal .unknownOpcode := by decide
theorem test_encode_words :
    allCommands.map encode = [0x00000000, 0x00000001, 0x00000002, 0x00000003, 0x00000004, 0x00000005, 0x00000006] := by
  decide
theorem test_table_word :
    decodeTableWord 32 3 = some .armStep ∧ decodeTableWord 8 6 = some .errClr ∧ decodeTableWord 32 7 = none ∧
      decodeTableWord 64 0 = none := by decide

/-- The host's question: the word placed by `withFetchWord` is what the next step runs. -/
theorem test_fetch_word_runs_next (nbits w : Nat) (i : Instr) (s : State) (h : decodeTableWord nbits w = some i) :
    step (s.withFetchWord nbits w) = exec i s := by
  unfold decodeTableWord at h
  split at h
  · cases h
  split at h
  · rename_i j hj
    cases h
    change memWrite 0x00 (tableWord nbits w) s = exec i s
    change execute (tableWord nbits w) s = exec i s
    simp only [execute, hj]
  · cases h

/-- R107, R109: lines of the programs of section 3, with the transactions their rows give. -/
theorem test_program_lines :
    (parseLine "wr SP_ROLL, -1").map (Option.map lineAction) = some (some (.bus (.write 0x10 0xFFFFFFFF))) ∧
    (parseLine "wr CMD, 0x107").map (Option.map lineAction) = some (some (.bus (.write 0x00 0x00000107))) ∧
    (parseLine "wr 0x0E, 5").map (Option.map lineAction) = some (some (.bus (.write 0x0E 0x00000005))) := by decide
theorem test_program_pseudo_lines :
    (parseLine "  stop.clr").map (Option.map lineAction) = some (some (.bus (.write 0x00 0x00000005))) ∧
    (parseLine "rst ; boot").map (Option.map lineAction) = some (some (.reset none)) ∧
    parseLine "; a comment" = some none ∧ parseLine "tick tick" = none ∧ parseLine "wr CMD 1" = none := by decide

/-! ## Arithmetic: AR0-1 to AR0-22 -/

theorem test_tdiv :
    [tdiv 7 2, tdiv (-7) 2, tdiv 0 5, tdiv (-1) 1000, tdiv (-999) 1000, tdiv (-1000) 1000, tdiv (-50010) 100,
      tdiv 50010 100, tdiv 65535000 65535, tdiv 1 65535, tdiv (-16777215) 1] =
    [3, -3, 0, 0, 0, -1, -500, 500, 1000, 0, -16777215] := by decide
theorem test_clamp : [clamp 5 1 3, clamp 0 1 3, clamp 2 1 3, clamp 2 3 1, clamp (-10) 3 1] = [3, 1, 2, 1, 1] := by decide
theorem test_sat32 :
    sat32 (2 ^ 31) = 2147483647 ∧ sat32 (-2 ^ 31 - 1) = -2147483648 ∧ sat32 549755781120 = 2147483647 := by decide
theorem test_sext :
    sextN 24 0x800000 = -8388608 ∧ sextN 16 0x9C40 = -25536 ∧ word32 (-10000) = 0xFFFFD8F0 := by decide

/-! ## Register writes and read-back: W-1 to W-30 -/

theorem test_write_throttle :
    [0xFFFFFFFB, 5000, 1000, 0x80000000, 0x7FFFFFFF].map (readAfterWrite 0x0C) =
    [some (0, true), some (0x3E8, true), some (0x3E8, true), some (0, true), some (0x3E8, true)] := by decide
theorem test_write_angles :
    [readAfterWrite 0x10 0x00800000, readAfterWrite 0x10 0x12FFFFFF, readAfterWrite 0x14 0xFFFFD8F0,
      readAfterWrite 0x28 0x007FFFFF, readAfterWrite 0x20 0x01000005] =
    [some (0xFF800000, true), some (0xFFFFFFFF, true), some (0xFFFFD8F0, true), some (0x007FFFFF, true),
      some (5, true)] := by decide
theorem test_write_gains :
    [readAfterWrite 0x30 40000, readAfterWrite 0x44 0x00012345, readAfterWrite 0x58 0xFFFF8000] =
    [some (0xFFFF9C40, true), some (0x2345, true), some (0xFFFF8000, true)] := by decide
theorem test_write_bounds :
    [readAfterWrite 0x3C 0x80000000, readAfterWrite 0x4C 0xFFFFFFFF, readAfterWrite 0x5C 0x7FFFFFFF] =
    [some (0, true), some (0, true), some (0x7FFFFFFF, true)] := by decide
theorem test_write_divisors :
    [readAfterWrite 0x60 0, readAfterWrite 0x60 0x00010000, readAfterWrite 0x64 0x0001FFFF] =
    [some (1, true), some (1, true), some (0xFFFF, true)] := by decide
theorem test_write_unsigned :
    [readAfterWrite 0x68 0x12345678, readAfterWrite 0x6C 0xFFFFFFFF, readAfterWrite 0x6C 0x1000,
      readAfterWrite 0x80 0x00010001, readAfterWrite 0x84 0xFFFFFFFF, readAfterWrite 0x88 0x00012345,
      readAfterWrite 0x8C 0xFFFF0000, readAfterWrite 0x90 0xFFFFFFFF, readAfterWrite 0x90 0x01000000] =
    [some (0x5678, true), some (0xFFF, true), some (0, true), some (1, true), some (0xFFFF, true), some (0x2345, true),
      some (0, true), some (0x00FFFFFF, true), some (0, true)] := by decide
theorem test_write_offsets :
    [readAfterWrite 0x70 0x0000FFFF, readAfterWrite 0x7C 0x00018000] =
    [some (0xFFFFFFFF, true), some (0xFFFF8000, true)] := by decide

/-! ## TICK: sections 2.3 and 2.4 -/

/-- PID-1 (R134), PID-4, PID-5, PID-7, PID-9, PID-10. -/
theorem test_tick_pid :
    [pitchAfterTick (pidRow 0 10000 0 0 2 1 3 50000 1000 100),
      pitchAfterTick (pidRow (-999) 0 7 0 0 1 0 100 1000 1),
      pitchAfterTick (pidRow 10000 0 45 10000 0 1 0 50 1000 1),
      pitchAfterTick (pidRow (-3000) 0 50 5000 0 1 0 50 1000 1),
      pitchAfterTick (pidRow 500 0 0 2000 0 0 4 0 1 1),
      pitchAfterTick (pidRow 0 0 (-37) 0 0 3 0 1000 1 10)] =
    [some (-10, -10000, 0x1F4), some (7, -999, 0xFFFFFFF9), some (50, 10000, 0xFFFFFFCE), some (47, -3000, 0xFFFFFFD1),
      some (0, 500, 0x1770), some (-37, 0, 0xB)] := by decide

/-- PID-11, PID-12, PID-13, PID-14, PID-17, PID-18. -/
theorem test_tick_pid_extremes :
    [pitchAfterTick (pidRow 359000 1000 0 0 1 0 0 0 1 1),
      pitchAfterTick (pidRow 8388607 (-8388608) 0 0 (-32768) 0 0 0 1 1),
      pitchAfterTick (pidRow (-8388608) 8388607 0 0 (-32768) 0 0 0 1 1),
      pitchAfterTick (pidRow 8388607 (-8388608) 2147483647 (-16777215) 32767 32767 32767 2147483647 1 1),
      pitchAfterTick (pidRow 7 0 0 0 1 0 0 0 1 2),
      pitchAfterTick (pidRow (-7) 0 0 0 1 0 0 0 1 2)] =
    [some (0, 358000, 0xFFFA8990), some (0, 16777215, 0x7FFFFFFF), some (0, -16777215, 0x80000000),
      some (2147483647, 16777215, 0x80000000), some (0, 7, 0xFFFFFFFD), some (0, -7, 3)] := by decide

/-- TK-3 (first TICK) and MX-10. -/
theorem test_tick_events :
    pulsesOf .tick armed164 = some [(0, 1800), (1, 1100), (2, 1800), (3, 1100)] ∧
    pulsesOf .tick { armed164 with stop := true } = some [(0, 1100), (1, 1100), (2, 1100), (3, 1100)] := by decide

/-- MX-5, MX-7 and MX-8 (R163): the three outputs are 10, 20 and 40 (KP = -2, PSCALE = 2, MEAS = u), T is 1500. -/
def mx5 : State :=
  { State.reset with
    mode := .armed, throttle := 1000, thrGain := 3, pscale := 2, minPulse := 1000, maxPulse := 2000,
    roll := { AxisRegs.reset with meas := 10, kp := -2 }, pitch := { AxisRegs.reset with meas := 20, kp := -2 },
    yaw := { AxisRegs.reset with meas := 40, kp := -2 } }

theorem test_tick_mixes :
    pulsesOf .tick mx5 = some [(0, 1570), (1, 1470), (2, 1450), (3, 1510)] ∧
    pulsesOf .tick { mx5 with mixSign := 0xFFF } = some [(0, 1430), (1, 1430), (2, 1430), (3, 1430)] ∧
    pulsesOf .tick { mx5 with minPulse := 1500, maxPulse := 1200 } =
      some [(0, 1200), (1, 1200), (2, 1200), (3, 1200)] := by decide

/-- TK-1, TK-2. -/
theorem test_tick_refused :
    recordAfter 0x00 1 State.reset = some (0x310, 1) ∧ recordAfter 0x00 1 (arming 500 0) = some (0x311, 1) ∧
      pulsesOf .tick (arming 500 0) = some [] := by decide

/-! ## Arming: section 2.5 -/

/-- AR-2, AR-3: RAMP after ARM_BEGIN. -/
theorem test_armBegin_ramp :
    (next? (exec .armBegin { arming 0 0 with mode := .idle, throttle := 1000, thrGain := 1000, pscale := 100 })).map
      (fun t => (t.ramp, t.mode)) = some (1000, .arming) ∧
    (next? (exec .armBegin { arming 0 0 with mode := .idle, throttle := 333, thrGain := 7, pscale := 10 })).map
      (fun t => (t.ramp, t.mode)) = some (233, .arming) := by decide

/-- AR-4, AR-5. -/
theorem test_armBegin_elsewhere :
    next? (exec .armBegin (arming 750 0)) = some (arming 750 0) ∧
      recordAfter 0x00 2 { State.reset with mode := .armed } = some (0x312, 2) := by decide

/-- AR-8, AR-12, AR-14, AR-11: events and RAMP of a pass. -/
theorem test_armStep_drives :
    [arming 250 5000, { arming 900 0 with maxPulse := 800 }, { arming 500 0 with stop := true, minPulse := 1100 },
        { arming 0 0x800000 with armThresh := 8388608 }].map
      (fun s => (next? (exec .armStep s)).map fun t => (t.events.map fun e => e.v.toNat, t.ramp.toNat, t.mode)) =
    [some ([250, 250, 250, 250], 500, .arming), some ([800, 800, 800, 800], 1000, .arming),
      some ([500, 500, 500, 500], 750, .arming), some ([0, 0, 0, 0], 250, .arming)] := by decide

/-- AR-9, AR-10, AR-7. -/
theorem test_armStep_exit :
    (next? (exec .armStep { arming 500 (-5001) with throttle := 700 })).map
      (fun t => (t.throttle, t.mode, t.ramp, t.events)) = some (0, .armed, 500, []) ∧
    (next? (exec .armStep { arming 0 0x800000 with armThresh := 8388607 })).map (fun t => t.mode) = some .armed ∧
    recordAfter 0x00 3 { State.reset with mode := .armed } = some (0x312, 3) := by decide

/-! ## Control commands, bus and reset: sections 2.6 to 2.8 -/

/-- CT-1 to CT-6. -/
theorem test_malformed_commands :
    recordAfter 0x00 0x106 State.reset = some (0x210, 0x106) ∧
    recordAfter 0x00 0x104 { State.reset with mode := .armed } = some (0x212, 0x104) ∧
    recordAfter 0x00 0xFF State.reset = some (0x110, 0xFF) ∧ recordAfter 0x00 7 State.reset = some (0x110, 7) ∧
    recordAfter 0x00 0xFFFFFFFF State.reset = some (0x210, 0xFFFFFFFF) := by decide

/-- CT-7, and P3 steps 30 and 32. -/
theorem test_control_status :
    recordAfter 0x00 6 { armed164 with
        stop := true, errCmd := true, errCfg := true, errBus := true, errCause := .cfgLocked, errInfo := 0x30 } =
      some (0x006, 0) ∧
    recordAfter 0x00 4 armed164 = some (0x006, 0) ∧ recordAfter 0x00 5 { armed164 with stop := true } = some (0x002, 0) ∧
    recordAfter 0x00 0 armed164 = some (0x002, 0) := by decide

/-- B-1 to B-6. -/
theorem test_bus_errors :
    [recordAfter 0x1D 1 State.reset, recordAfter 0x01 1 armed164, recordAfter 0x1C 1 State.reset,
      recordAfter 0xFC 1 State.reset, recordAfter 0x04 0 State.reset, recordAfter 0xD0 5 State.reset] =
    [some (0x540, 0x1D), some (0x542, 0x01), some (0x740, 0x1C), some (0x740, 0xFC), some (0x640, 0x04),
      some (0x640, 0xD0)] := by decide

/-- B-7 to B-12. -/
theorem test_bus_lock :
    [recordAfter 0x30 5 armed164, recordAfter 0x94 5 armed164, recordAfter 0x31 5 armed164, recordAfter 0xA0 1 armed164,
      recordAfter 0x0C 300 armed164, recordAfter 0x60 10 (arming 0 0)] =
    [some (0x422, 0x30), some (0x742, 0x94), some (0x542, 0x31), some (0x642, 0xA0), some (0x002, 0),
      some (0x421, 0x60)] := by decide

/-- B-15's last step: the first error stays on record. -/
theorem test_first_error_stays :
    recordAfter 0x00 7 { armed164 with errCfg := true, errBus := true, errCause := .cfgLocked, errInfo := 0x30 } =
      some (0x472, 0x30) := by decide

/-- RS-1, at the three offsets whose reset value is not 0, and two that are 0. -/
theorem test_reset_reads :
    [0x60, 0x64, 0x6C, 0x04, 0xDC].map (fun a => memRead a State.reset) = [1, 1, 0x7A8, 0, 0] := by decide

/-- RS-2: reset from Armed with errors appends no event and leaves the reset values. -/
theorem test_reset_action :
    next? (perform (.reset none) { armed164 with stop := true, errCmd := true, events := [⟨2, 1500⟩] }) =
      some { State.reset with events := [⟨2, 1500⟩] } := by decide

/-- R254, R255: the host's sequences as the transactions of programs P1 and P3. -/
theorem test_host_sequences :
    controlRound 0 (-1000) 0 (some ⟨10000, 0, 0, 50, true⟩) =
      [.bus (.write 0x20 0), .bus (.write 0x24 0xFFFFFC18), .bus (.write 0x28 0), .bus (.write 0x10 0x2710),
        .bus (.write 0x14 0), .bus (.write 0x18 0), .bus (.write 0x0C 50), .bus (.write 0x00 4), .bus (.write 0x00 1)] ∧
    bootActions [(.minPulse, 1100)] 0 0 =
      [.reset none, .bus (.write 0x80 0x44C), .bus (.write 0x0C 0), .bus (.write 0x10 0), .bus (.write 0x00 2)] ∧
    armingPass (some 10000) = [.bus (.write 0x10 0x2710), .bus (.write 0x00 3)] ∧
    pulseDutiesKept armed164 = true := by decide

/-! ## Witnesses: the hypotheses of each statement met together -/

/-- A flying state: R164 after its first TICK, with the port's last frame, an error on record, a NOP waiting. -/
def flying : State :=
  { armed164 with
    roll := { armed164.roll with integ := -10, lastErr := -10000, pidOut := 500 }
    motorA := ⟨1000, 1800⟩, motorB := ⟨1000, 1100⟩, motorC := ⟨1000, 1800⟩, motorD := ⟨1000, 1100⟩
    events := [⟨0, 1800⟩, ⟨1, 1100⟩, ⟨2, 1800⟩, ⟨3, 1100⟩]
    errCfg := true, errCause := .cfgLocked, errInfo := 0x30
    pending := [issue .tick] }

theorem inv_flying : Inv flying where
  iscalePositive := by decide
  pscalePositive := by decide
  integral a := by cases a <;> decide
  lastErr a := by cases a <;> decide
  atRest h := absurd rfl h
  ramp := by decide
  rampIdle h := by cases h
  infoClear h := by cases h
  classClear h := by cases h
  classSet := by decide
  frames := ⟨rfl, rfl, rfl, rfl, trivial⟩
  readBack := .inr fun m => by cases m <;> decide

theorem inv_arming : Inv (arming 250 5001) where
  iscalePositive := by decide
  pscalePositive := by decide
  integral a := by cases a <;> decide
  lastErr a := by cases a <;> decide
  atRest _ a := by cases a <;> decide
  ramp := by decide
  rampIdle h := by cases h
  infoClear _ := rfl
  classClear _ := ⟨rfl, rfl, rfl⟩
  classSet := by decide
  frames := trivial
  readBack := .inl fun m => by cases m <;> rfl

theorem witness_EveryWordFallsInItsClass :
    256 ≤ (0x100#32).toNat ∧ (7 ≤ (7#32).toNat ∧ (7#32).toNat < 256) ∧ (7 ≤ (0xFF#32).toNat ∧ (0xFF#32).toNat < 256) ∧
      (6#32).toNat < 7 := by decide
theorem witness_DivisionTruncatesTowardZero : (0 : Int) < 1 := by decide
theorem witness_ClampUpperBoundWins : ((1 : Int) ≤ 1 ∧ (1 : Int) ≤ 1) ∧ (1 : Int) < 3 := by decide
theorem witness_EveryIntermediateFitsFiftyBits : Inv flying ∧ Inv (arming 250 5001) := ⟨inv_flying, inv_arming⟩
theorem witness_FiftyBitDatapathIsExact : 50 ≤ 50 ∧ Inv flying := ⟨le_refl _, inv_flying⟩
theorem witness_RegisterMapIsOneToOne :
    (0x00, Reg.cmd) ∈ claimedOffsets ∧ (0xDC, Reg.out .d) ∈ claimedOffsets ∧
    slotAt 0x00 = some .cmd ∧ slotAt 0xDC = some (.out .d) ∧ aligned 0xFC = true ∧ aligned 0x90 = true := by decide
theorem witness_ReadHasNoEffect :
    ∃ s : State, s.pending = .bus (.read 0xFF) :: [.reset none] ∧
      ((0xFF#8).toNat % 4 ≠ 0 ∧ (0xFC#8) ∈ reservedOffsets ∧ (0x00 : Addr) = 0x00) :=
  ⟨{ flying with pending := [.bus (.read 0xFF), .reset none] }, rfl, by decide⟩
theorem witness_MisalignedAccess :
    (0x01#8).toNat % 4 ≠ 0 ∧ (0xFF#8).toNat % 4 ≠ 0 ∧
      ({ flying with pending := [.bus (.read 0xFF)] } : State).pending = .bus (.read 0xFF) :: [] := by decide
theorem witness_ReservedOffsetHoldsNothing : 0x1C ∈ reservedOffsets ∧ 0xFC ∈ reservedOffsets := by decide
theorem witness_ReadOnlyAndReservedWrites :
    0x94 ∈ reservedOffsets ∧
      ∃ r : Reg, r = .status ∨ r = .errInfo ∨ r = .ramp ∨ (∃ a, r = .integ a ∨ r = .lastErr a ∨ r = .pidOut a) ∨
        ∃ m, r = .out m := ⟨by decide, .out .d, .inr (.inr (.inr (.inr ⟨.d, rfl⟩)))⟩
theorem witness_ConfigurationLock :
    accessOf (.kp .roll) = .config ∧ accessOf .armThresh = .config ∧ flying.mode ≠ .idle ∧ (arming 0 0).mode ≠ .idle ∧
      State.reset.mode = .idle := by decide
theorem witness_GainAndOffsetStoreSixteenBits :
    State.reset.mode = .idle ∧ ((∃ a, Reg.kd .yaw = .kp a ∨ Reg.kd .yaw = .ki a ∨ Reg.kd .yaw = .kd a) ∨
      ∃ m, Reg.kd .yaw = .offset m) ∧ ∃ m, Reg.offset .d = .offset m :=
  ⟨rfl, .inl ⟨.yaw, .inr (.inr rfl)⟩, .d, rfl⟩
theorem witness_IntegralBoundStoresNonNegative :
    State.reset.mode = .idle ∧ (0x7FFFFFFF#32).toNat < 2 ^ 31 ∧ ¬(0x80000000#32).toNat < 2 ^ 31 := by decide
theorem witness_DivisorStoresAtLeastOne : State.reset.mode = .idle := rfl
theorem witness_UnsignedFieldsStoreTheirLowBits : { State.reset with thrGain := 7, errBus := true }.mode = .idle := rfl
theorem witness_StoringTwiceIsStoringOnce :
    accessOf .throttle = .readWrite ∧ (accessOf .armThresh = .config ∧ State.reset.mode = .idle) := by decide
theorem witness_ReadsDetermineTheState :
    ∃ s t : State, s = flying ∧ (∀ addr, memRead addr s = memRead addr t) ∧ s.events = t.events ∧
      s.pending = t.pending ∧ s.answers = t.answers := ⟨flying, flying, rfl, fun _ => rfl, rfl, rfl, rfl⟩
theorem witness_StepTakesTheNextAction : flying.pending = issue .tick :: [] ∧ armed164.pending = [] := by decide
theorem witness_StepRunsTheDecodedCommand :
    flying.pending = .bus (.write 0x00 0x00000001) :: [] ∧ decode 0x00000001 = .command .tick ∧
      Instr.tick.wellFormed = true := by decide
theorem witness_ErrorProcedure : armed164.errCause = .none ∧ flying.errCause ≠ .none := by decide
theorem witness_ErrorPriority :
    (0xFF#8).toNat % 4 ≠ 0 ∧ ((0x1C#8).toNat % 4 = 0 ∧ slotAt 0x1C = none) ∧
    (slotAt 0xDC = some (.out .d) ∧ accessOf (.out .d) = .readOnly) ∧
    (slotAt 0x90 = some .armThresh ∧ accessOf .armThresh = .config ∧ flying.mode ≠ .idle) ∧
    256 ≤ (0x100#32).toNat ∧ (7 ≤ (0xFF#32).toNat ∧ (0xFF#32).toNat < 256) ∧
    refusedInMode .armBegin flying.mode = true ∧ refusedInMode .tick (arming 0 0).mode = true := by decide
theorem witness_FirstErrorStaysOnRecord :
    ∃ t, flying.pending = issue .tick :: [] ∧ step flying = .next t ∧ flying.errCause ≠ .none ∧
      issue .tick ≠ issue .errClr ∧ isReset (issue .tick) = false ∧ flying.errCfg = true :=
  ⟨_, rfl, rfl, by decide, by decide, rfl, rfl⟩

/-- Armed, with one host action waiting. -/
def armedWith (act : HostAction) : State := { armed164 with pending := [act] }

theorem witness_AnErrorChangesOnlyTheRecord :
    ∃ t, (armedWith (issue .armStep)).pending = issue .armStep :: [] ∧ step (armedWith (issue .armStep)) = .next t ∧
      issue .armStep ≠ issue .errClr ∧ isReset (issue .armStep) = false ∧
      (t.errCmd, t.errCfg, t.errBus, t.errCause, t.errInfo) ≠
        (armed164.errCmd, armed164.errCfg, armed164.errBus, armed164.errCause, armed164.errInfo) :=
  ⟨_, rfl, rfl, by decide, rfl, by decide⟩
theorem witness_ErrorBitsChangeNothingElse :
    ∃ s : State, s ≠ flying ∧ forgetErrors s = forgetErrors flying ∧ (0x08 : Addr) ≠ 0x04 ∧ (0x0C : Addr) ≠ 0x08 :=
  ⟨clearErrors flying, by decide, rfl, by decide, by decide⟩
theorem witness_StopSetSetsTheLatch :
    { flying with stop := true }.stop = true ∧ flying.mode = .armed ∧
      ∃ v v' : State, v.stop = true ∧ v.pending = issue .tick :: [] ∧ step v = .next v' ∧
        issue .tick ≠ issue .stopClr ∧ isReset (issue .tick) = false :=
  ⟨rfl, rfl, { flying with stop := true }, _, rfl, rfl, rfl, by decide, rfl⟩
theorem witness_StopClrClearsTheLatch : flying.stop = false ∧ flying.mode = .armed := by decide
theorem witness_ErrClrClearsTheRecord : 256 ≤ (0x106#32).toNat ∧ 256 ≤ (0x100#32).toNat := by decide
theorem witness_StopLatchWriters :
    (∃ t, step (armedWith (issue .stopSet)) = .next t ∧ t.stop ≠ (armedWith (issue .stopSet)).stop) ∧
    (∃ t, step { armedWith (issue .stopClr) with stop := true } = .next t ∧ t.stop ≠ true) ∧
    ∃ t, step { armedWith (.reset none) with stop := true } = .next t ∧ t.stop ≠ true :=
  ⟨⟨_, rfl, by decide⟩, ⟨_, rfl, by decide⟩, ⟨_, rfl, by decide⟩⟩
theorem witness_TickCommand :
    State.reset.mode ≠ .armed ∧ (arming 0 0).mode ≠ .armed ∧
      flying.mode = .armed ∧ flying.iscale ≠ 0 ∧ flying.pscale ≠ 0 := by decide
theorem witness_AxesAreIndependent :
    ∃ s : State, s ≠ flying ∧ axisOf s .roll = axisOf flying .roll ∧ s.iscale = flying.iscale ∧
      s.pscale = flying.pscale := ⟨{ flying with yaw := AxisRegs.reset }, by decide, rfl, rfl, rfl⟩

/-- P2 before its step 16, with three TICKs waiting. -/
def windup : State :=
  { State.reset with
    mode := .armed, iscale := 1000, roll := { AxisRegs.reset with meas := 10000, ki := 1, maxi := 15, integ := -15 },
    pending := List.replicate 3 (issue .tick) ++ [] }

theorem witness_ConstantErrorDrivesTheIntegralToItsBound :
    windup.mode = .armed ∧ windup.iscale ≠ 0 ∧ integralBounded (axisOf windup .roll) ∧
      windup.pending = List.replicate 3 (issue .tick) ++ [] ∧
      (2 * (axisOf windup .roll).maxi.toNat : Int) ≤
        (3 : Nat) * |tdiv ((axisOf windup .roll).meas.toInt - (axisOf windup .roll).sp.toInt) windup.iscale.toNat| ∧
      0 < tdiv ((axisOf windup .roll).meas.toInt - (axisOf windup .roll).sp.toInt) windup.iscale.toNat := by decide

/-- The same with the error turned round, from the other bound. -/
def winddown : State :=
  { windup with roll := { AxisRegs.reset with meas := -10000, ki := 1, maxi := 15, integ := 15 } }

theorem witness_ConstantErrorDrivesTheIntegralToItsBound_negative :
    winddown.mode = .armed ∧ winddown.iscale ≠ 0 ∧ integralBounded (axisOf winddown .roll) ∧
      winddown.pending = List.replicate 3 (issue .tick) ++ [] ∧
      (2 * (axisOf winddown .roll).maxi.toNat : Int) ≤
        (3 : Nat) * |tdiv ((axisOf winddown .roll).meas.toInt - (axisOf winddown .roll).sp.toInt) winddown.iscale.toNat| ∧
      tdiv ((axisOf winddown .roll).meas.toInt - (axisOf winddown .roll).sp.toInt) winddown.iscale.toNat < 0 := by
  decide
theorem witness_StopOverridesOutputsOnly : flying.mode = .armed := rfl
theorem witness_SafetyClampBoundsEachMotor :
    (flying.mode = .armed ∧ flying.stop = false ∧ flying.minPulse.toNat ≤ flying.maxPulse.toNat) ∧
      { flying with minPulse := 2000 }.maxPulse.toNat < { flying with minPulse := 2000 }.minPulse.toNat := by decide
theorem witness_DefaultLayoutMixes : flying.mixSign = 0x7A8 := rfl
theorem witness_ReadBackCopiesFeedNothing :
    ∃ s : State, s ≠ flying ∧ forgetReadBack s = forgetReadBack flying :=
  ⟨{ flying with motorA := ⟨1000, 9⟩ }, by decide, rfl⟩
theorem witness_ArmBeginCommand :
    ({ arming 0 0 with mode := .idle }.mode = .idle ∧ (arming 0 0).pscale ≠ 0) ∧ accessOf .armPulse = .config ∧
      (arming 750 0).mode = .arming ∧ flying.mode = .armed := by decide
theorem witness_ArmStepCommand :
    flying.mode ≠ .arming ∧ State.reset.mode ≠ .arming ∧
      ((arming 0 5001).mode = .arming ∧ ((arming 0 5001).armThresh.toNat : Int) < |(arming 0 5001).roll.sp.toInt|) ∧
      |(arming 0 (-5000)).roll.sp.toInt| ≤ (arming 0 (-5000)).armThresh.toNat := by decide
theorem witness_ArmingStaysUnderItsBound :
    (arming 1000 0).mode = .arming ∧ (arming 1000 0).ramp.toNat ≤ (arming 1000 0).armPulse.toNat := by decide

/-- In between the ARM_STEPs: a read, a refused TICK, a locked write, and the roll setpoint at the threshold, on the
negative side. -/
def quietActions : List HostAction :=
  [issue .armStep, .bus (.read 0x04), issue .tick, .bus (.write 0x90 0), .bus (.write 0x10 (word32 (-5000))),
    issue .armStep]

theorem quiet_actions : ∀ act ∈ quietActions, keepsLinkQuiet 5000 act := by
  intro act ha
  simp only [quietActions, List.mem_cons, List.not_mem_nil, or_false] at ha
  rcases ha with rfl | rfl | rfl | rfl | rfl | rfl <;> refine ⟨rfl, fun w hw => ?_⟩ <;> first
    | (cases hw; decide)
    | exact absurd hw (by simp [issue])

theorem witness_ArmingCanLastForever :
    ∃ s : State, s.mode = .arming ∧ |s.roll.sp.toInt| ≤ s.armThresh.toNat ∧ s.ramp.toNat ≤ s.armPulse.toNat ∧
      s.pending = quietActions ++ [issue .nop] ∧ (∀ act ∈ quietActions, keepsLinkQuiet s.armThresh.toNat act) :=
  ⟨{ arming 250 5000 with pending := quietActions ++ [issue .nop] }, rfl, by decide, by decide, rfl, quiet_actions⟩
theorem witness_ArmingIsKeptByEveryQuietAction :
    ∃ s t : State, s.pending = .bus (.write 0x10 (word32 (-5000))) :: [] ∧ step s = .next t ∧
      keepsLinkQuiet s.armThresh.toNat (.bus (.write 0x10 (word32 (-5000)))) ∧ s.mode = .arming ∧
      |s.roll.sp.toInt| ≤ s.armThresh.toNat :=
  ⟨{ arming 250 5000 with pending := [.bus (.write 0x10 (word32 (-5000)))] }, _, rfl, rfl,
    quiet_actions _ (by simp [quietActions]), rfl, by decide⟩
theorem witness_ThresholdCorners :
    (arming 0 0x800000).mode = .arming ∧ 2 ^ 23 ≤ (0x800000#24).toNat ∧ (0x7FFFFF#24).toNat < 2 ^ 23 ∧
      (arming 0 0x800000).roll.sp = 0x800000#24 := by decide
theorem witness_FirstTickDerivativeIsTheError :
    Inv (arming 250 5001) ∧ (arming 250 5001).mode = .arming ∧
      ((arming 250 5001).armThresh.toNat : Int) < |(arming 250 5001).roll.sp.toInt| := ⟨inv_arming, rfl, by decide⟩
theorem witness_ModeTransitionTable :
    refusedInMode .tick .idle = true ∧ refusedInMode .tick .armed = false ∧ Instr.tick ≠ .errClr ∧
      refusedInMode .armStep .arming = false := by decide

/-- Arming, with one host action waiting and the setpoint over the threshold. -/
def armingWith (act : HostAction) : State := { arming 250 5001 with pending := [act] }

theorem witness_ModeWriters :
    (∃ t, step { armingWith (issue .armBegin) with mode := .idle } = .next t ∧ t.mode ≠ .idle) ∧
    (∃ t, step (armingWith (issue .armStep)) = .next t ∧ t.mode ≠ (armingWith (issue .armStep)).mode) ∧
    ∃ t, step (armedWith .powerUp) = .next t ∧ t.mode ≠ (armedWith .powerUp).mode :=
  ⟨⟨_, rfl, by decide⟩, ⟨_, rfl, by decide⟩, ⟨_, rfl, by decide⟩⟩
theorem witness_RegistersChangeOnlyByTheirWriters :
    ∃ t, flying.pending = issue .tick :: [] ∧ step flying = .next t ∧
      memRead (offsetOf (.integ .roll)) t ≠ memRead (offsetOf (.integ .roll)) flying :=
  ⟨_, rfl, rfl, by decide⟩
theorem witness_EventsComeInWholeFrames :
    ∃ t, flying.pending = issue .tick :: [] ∧ step flying = .next t ∧ t.events ≠ flying.events :=
  ⟨_, rfl, rfl, by decide⟩
theorem witness_MaxPulseIsAHardCeiling :
    ∃ t, (armedWith (issue .tick)).pending = issue .tick :: [] ∧ step (armedWith (issue .tick)) = .next t ∧
      t.events.length = 4 := ⟨_, rfl, rfl, by decide⟩
theorem witness_EveryStepKeepsTheInvariant : ∃ t, Inv flying ∧ step flying = .next t ∧ t ≠ flying :=
  ⟨_, inv_flying, rfl, by decide⟩

end Sys2Proof.Tests
end

/-! ## Scope: exact arithmetic and the 50-bit datapath (spec/00_scope.md R14 to R16)

The integer primitives come first, then R131's and R157's magnitudes of a TICK's values, then the datapath. Reduction to n bits
is a ring homomorphism, so sums and products need no bound; a bound is needed only where the datapath reads a sign: in
a signed quotient, in a signed comparison, and in the final signed reading. -/

namespace Sys2Proof.Machine

/-! ### The primitives -/

theorem tdiv_neg_left (a b : Int) : tdiv (-a) b = -tdiv a b := Int.neg_tdiv a b

theorem tdiv_eq_sign_mul_ediv (a b : Int) : tdiv a b = a.sign * (|a| / b) := by
  have quotient_of_nonneg {c : Int} (hc : 0 ≤ c) : tdiv c b = c / b := Int.tdiv_eq_ediv_of_nonneg hc
  rcases lt_trichotomy a 0 with ha | rfl | ha
  · rw [Int.sign_eq_neg_one_of_neg ha, abs_of_neg ha, ← quotient_of_nonneg (by omega), tdiv_neg_left]
    ring
  · simp [tdiv]
  · rw [Int.sign_eq_one_of_pos ha, abs_of_pos ha, one_mul, quotient_of_nonneg ha.le]

/-- Settles O5: one equation for both signs of the dividend, and the examples by evaluation. -/
theorem divisionTruncatesTowardZero : Obligations.DivisionTruncatesTowardZero :=
  ⟨fun a b _ => ⟨tdiv_eq_sign_mul_ediv a b, tdiv_neg_left a b⟩, by decide⟩

/-- Settles O6 from the laws of clamp. -/
theorem clampUpperBoundWins : Obligations.ClampUpperBoundWins :=
  fun v _ hi => ⟨rfl, fun h => ⟨lower_le_clamp h, clamp_le_upper v _ hi⟩, clamp_of_within,
    fun h => clamp_of_crossed h.le, rfl⟩

theorem abs_tdiv_le (a : Int) (b : Nat) : |tdiv a b| ≤ |a| := by
  rw [Int.abs_eq_natAbs, Int.abs_eq_natAbs]
  exact_mod_cast natAbs_tdiv_le a b

/-! ### The magnitudes of a TICK's values (R131, R157) -/

theorem maxi_le (s : State) (a : Axis) : ((axisOf s a).maxi.toNat : Int) ≤ 2 ^ 31 - 1 := by
  have := (axisOf s a).maxi.isLt
  omega

theorem abs_pidAccumulated_le {s : State} (inv : Inv s) (a : Axis) :
    |pidAccumulated s a| ≤ (2 ^ 31 - 1) + (2 ^ 24 - 1) := by
  have hinteg : |(axisOf s a).integ.toInt| ≤ 2 ^ 31 - 1 := (abs_le.2 (inv.integral a)).trans (maxi_le s a)
  have hquot := (abs_tdiv_le (pidError s a) s.iscale.toNat).trans (abs_pidError_le s a)
  exact (abs_add_le _ _).trans (add_le_add hinteg hquot)

theorem abs_pidIntegral_le (s : State) (a : Axis) : |pidIntegral s a| ≤ 2 ^ 31 - 1 :=
  (abs_le.2 (pidIntegral_within s a)).trans (maxi_le s a)

theorem abs_pidDerivative_le {s : State} (inv : Inv s) (a : Axis) : |pidDerivative s a| ≤ 2 ^ 25 - 2 := by
  have herr := abs_le.1 (abs_pidError_le s a)
  have hlast := inv.lastErr a
  rw [pidDerivative, abs_le]
  omega

theorem abs_gain_mul_le (gain : BitVec 16) {x b : Int} (hx : |x| ≤ b) : |gain.toInt * x| ≤ 2 ^ 15 * b := by
  have hgain : |gain.toInt| ≤ 2 ^ 15 := by
    have := toInt_bounds gain
    rw [abs_le]
    omega
  rw [abs_mul]
  exact mul_le_mul hgain hx (abs_nonneg x) (by norm_num)

theorem abs_pidSum_lt {s : State} (inv : Inv s) (a : Axis) : |pidSum s a| < 2 ^ 39 + 2 ^ 46 + 2 ^ 40 := by
  have hp := abs_gain_mul_le (axisOf s a).kp (abs_pidError_le s a)
  have hi := abs_gain_mul_le (axisOf s a).ki (abs_pidIntegral_le s a)
  have hd := abs_gain_mul_le (axisOf s a).kd (abs_pidDerivative_le inv a)
  calc |pidSum s a|
      ≤ |(axisOf s a).kp.toInt * pidError s a| + |(axisOf s a).ki.toInt * pidIntegral s a|
          + |(axisOf s a).kd.toInt * pidDerivative s a| := abs_add_three _ _ _
    _ ≤ 2 ^ 15 * (2 ^ 24 - 1) + 2 ^ 15 * (2 ^ 31 - 1) + 2 ^ 15 * (2 ^ 25 - 2) := add_le_add_three hp hi hd
    _ < 2 ^ 39 + 2 ^ 46 + 2 ^ 40 := by norm_num

theorem abs_pidOutput_le (s : State) (a : Axis) : |pidOutput s a| ≤ |pidSum s a| := by
  rw [pidOutput, abs_neg]
  exact abs_tdiv_le _ _

theorem abs_pidOutput_lt {s : State} (inv : Inv s) (a : Axis) : |pidOutput s a| < 2 ^ 47 :=
  ((abs_pidOutput_le s a).trans_lt (abs_pidSum_lt inv a)).trans (by norm_num)

theorem throttle_product_le (s : State) : (s.throttle.val : Int) * s.thrGain.toNat ≤ 65535000 := by
  have hthrottle : s.throttle.val ≤ 1000 := Nat.le_of_lt_succ s.throttle.isLt
  have hgain : s.thrGain.toNat ≤ 65535 := Nat.le_of_lt_succ s.thrGain.isLt
  exact_mod_cast Nat.mul_le_mul hthrottle hgain

theorem throttle_product_nonneg (s : State) : 0 ≤ (s.throttle.val : Int) * s.thrGain.toNat := by positivity

theorem baseThrottle_le (s : State) : baseThrottle s ≤ 65535000 := by
  have := abs_tdiv_le (s.throttle.val * s.thrGain.toNat) s.pscale.toNat
  rw [abs_of_nonneg (throttle_product_nonneg s)] at this
  exact (le_abs_self _).trans (this.trans (throttle_product_le s))

theorem abs_mixSgn_mul (s : State) (m : Motor) (a : Axis) (x : Int) : |mixSgn s m a * x| = |x| := by
  rw [mixSgn]
  split <;> simp

theorem abs_mix_lt {s : State} (inv : Inv s) (m : Motor) : |mix s m| < 2 ^ 26 + 3 * 2 ^ 47 := by
  have hsigned (a : Axis) := abs_lt.1 ((abs_mixSgn_mul s m a _).trans_lt (abs_pidOutput_lt inv a))
  have hroll := hsigned .roll
  have hpitch := hsigned .pitch
  have hyaw := hsigned .yaw
  have hbase := baseThrottle_nonneg s
  have hbase' := baseThrottle_le s
  have hoffset := toInt_bounds (motorOf s m).offset
  rw [mix, abs_lt]
  omega

theorem mix_fits {s : State} (inv : Inv s) (m : Motor) : |mix s m| < 2 ^ 49 :=
  (abs_mix_lt inv m).trans (by norm_num)

/-! ### The claimed formulas are the exact meanings -/

theorem claimedIntegral_eq (s : State) (a : Axis) : claimedIntegral s a = pidIntegral s a := rfl

theorem claimedOutput_eq (s : State) (a : Axis) : claimedOutput s a = pidOutput s a := rfl

theorem claimedSign_eq (s : State) (m : Motor) (a : Axis) : claimedSign s m a = mixSgn s m a := by
  rw [claimedSign, mixSgn, BitVec.getLsbD, Nat.testBit_eq_decide_div_mod_eq]
  rcases Nat.mod_two_eq_zero_or_one (s.mixSign.toNat / 2 ^ (3 * motorIndex m + axisIndex a)) with h | h <;> simp [h]

theorem claimedMix_eq (s : State) (m : Motor) : claimedMix s m = mix s m := by
  simp only [claimedMix, mix, claimedSign_eq, claimedOutput_eq, baseThrottle]

theorem claimedPulse_eq (s : State) (m : Motor) : claimedPulse s m = (tickPulse s m).toNat := by
  cases hstop : s.stop with
  | true => rw [tickPulse_of_stopped hstop, claimedPulse, if_pos hstop]
  | false =>
    rw [tickPulse_of_running hstop, claimedPulse, if_neg (by simp [hstop]), claimedMix_eq]
    rfl

/-! ### The operations of the datapath -/

section Datapath

variable {n : Nat}

theorem fx_add (x y : Int) : fx n (x + y) = fx n x + fx n y := BitVec.ofInt_add x y

theorem fx_neg (x : Int) : fx n (-x) = -fx n x := BitVec.ofInt_neg

theorem fx_mul (x y : Int) : fx n (x * y) = fx n x * fx n y := BitVec.ofInt_mul x y

theorem fx_sub (x y : Int) : fx n (x - y) = fx n x - fx n y := by
  rw [sub_eq_add_neg, fx_add, fx_neg, BitVec.sub_eq_add_neg]

/-- The low 16 bits of the datapath are those of the exact value. -/
theorem fx_setWidth (hn : 16 ≤ n) (v : Int) : (fx n v).setWidth 16 = BitVec.ofInt 16 v := by
  have hdvd : ((2 ^ 16 : Nat) : Int) ∣ (2 ^ n : Nat) := Int.natCast_dvd_natCast.2 (Nat.pow_dvd_pow 2 hn)
  have hpos : 0 ≤ v % (2 ^ n : Nat) := Int.emod_nonneg _ (by positivity)
  apply BitVec.eq_of_toNat_eq
  rw [BitVec.toNat_setWidth, fx, BitVec.toNat_ofInt, BitVec.toNat_ofInt, ← Int.emod_emod_of_dvd v hdvd,
    Int.toNat_emod hpos (by norm_num), Int.toNat_natCast]

variable (hn : 50 ≤ n)
include hn

/-- No quotient overflows: the one that could, of the least value by -1, has a dividend out of range. -/
theorem fx_sdiv {x y : Int} (hx : |x| < 2 ^ 49) (hy : |y| < 2 ^ 49) :
    (fx n x).sdiv (fx n y) = fx n (tdiv x y) := by
  apply BitVec.eq_of_toInt_eq
  rw [BitVec.toInt_sdiv, fx_toInt hn hx, fx_toInt hn hy, fx, BitVec.toInt_ofInt, tdiv]

theorem fxClamp_fx {v lo hi : Int} (hv : |v| < 2 ^ 49) (hlo : |lo| < 2 ^ 49) (hhi : |hi| < 2 ^ 49) :
    fxClamp (fx n v) (fx n lo) (fx n hi) = fx n (clamp v lo hi) := by
  have hclamp : |clamp v lo hi| < 2 ^ 49 := by
    rw [abs_lt] at *
    rw [clamp]
    omega
  apply BitVec.eq_of_toInt_eq
  rw [fxClamp_toInt, fx_toInt hn hv, fx_toInt hn hlo, fx_toInt hn hhi, fx_toInt hn hclamp]

end Datapath

/-! ### The datapath computes the exact values -/

/-- An unsigned register of at most 49 bits is a non-negative number of the datapath. -/
theorem abs_toNat_lt {w : Nat} (x : BitVec w) (hw : w ≤ 49) : |(x.toNat : Int)| < 2 ^ 49 := by
  rw [Nat.abs_cast]
  exact_mod_cast x.isLt.trans_le (Nat.pow_le_pow_right (by norm_num) hw)

theorem fxError_eq (n : Nat) (s : State) (a : Axis) : fxError n s a = fx n (pidError s a) := (fx_sub _ _).symm

section Exact

variable {n : Nat} {s : State} (hn : 50 ≤ n) (inv : Inv s)
include hn inv

theorem fxIntegral_eq (a : Axis) : fxIntegral n s a = fx n (pidIntegral s a) := by
  have herr : |pidError s a| < 2 ^ 49 := (abs_pidError_le s a).trans_lt (by norm_num)
  have hacc : |pidAccumulated s a| < 2 ^ 49 := (abs_pidAccumulated_le inv a).trans_lt (by norm_num)
  have hmaxi : |((axisOf s a).maxi.toNat : Int)| < 2 ^ 49 := abs_toNat_lt _ (by norm_num)
  rw [fxIntegral, fxError_eq, fx_sdiv hn herr (abs_toNat_lt _ (by norm_num)), ← fx_add, ← fx_neg]
  exact fxClamp_fx hn hacc (by rwa [abs_neg]) hmaxi

theorem fxSum_eq (a : Axis) : fxSum n s a = fx n (pidSum s a) := by
  simp only [fxSum, fxError_eq, fxIntegral_eq hn inv, pidSum, pidDerivative, fx_add, fx_mul, fx_sub]

theorem fxOutput_eq (a : Axis) : fxOutput n s a = fx n (pidOutput s a) := by
  have hsum : |pidSum s a| < 2 ^ 49 := (abs_pidSum_lt inv a).trans (by norm_num)
  rw [fxOutput, fxSum_eq hn inv, fx_sdiv hn hsum (abs_toNat_lt _ (by norm_num)), ← fx_neg, pidOutput]

theorem fxSigned_eq (m : Motor) (a : Axis) : fxSigned n s m a = fx n (mixSgn s m a * pidOutput s a) := by
  rw [fxSigned, fxOutput_eq hn inv, mixSgn]
  split
  · rw [neg_one_mul, fx_neg]
  · rw [one_mul]

theorem fxMix_eq (m : Motor) : fxMix n s m = fx n (mix s m) := by
  have hproduct : |(s.throttle.val : Int) * s.thrGain.toNat| < 2 ^ 49 := by
    rw [abs_of_nonneg (throttle_product_nonneg s)]
    exact (throttle_product_le s).trans_lt (by norm_num)
  rw [fxMix, ← fx_mul, fx_sdiv hn hproduct (abs_toNat_lt _ (by norm_num))]
  simp only [fxSigned_eq hn inv, mix, baseThrottle, fx_add]

theorem fxPulse_eq (m : Motor) : fxPulse n s m = tickPulse s m := by
  have hmin : |(s.minPulse.toNat : Int)| < 2 ^ 49 := abs_toNat_lt _ (by norm_num)
  have hmax : |(s.maxPulse.toNat : Int)| < 2 ^ 49 := abs_toNat_lt _ (by norm_num)
  rw [fxPulse, fxMix_eq hn inv, fxClamp_fx hn (mix_fits inv m) hmin hmax, fx_setWidth (by omega)]
  rfl

end Exact

/-- Settles O8: each value of the datapath is the exact one reduced to n bits, and the exact one reads back. -/
theorem fiftyBitDatapathIsExact : Obligations.FiftyBitDatapathIsExact := by
  intro n s hn inv
  refine ⟨fun a => ⟨?_, ?_⟩, fun m => ⟨?_, ?_⟩⟩
  · rw [fxIntegral_eq hn inv, claimedIntegral_eq]
    exact fx_toInt hn ((abs_pidIntegral_le s a).trans_lt (by norm_num))
  · rw [fxOutput_eq hn inv, claimedOutput_eq]
    exact fx_toInt hn ((abs_pidOutput_lt inv a).trans (by norm_num))
  · rw [fxMix_eq hn inv, claimedMix_eq]
    exact fx_toInt hn (mix_fits inv m)
  · rw [fxPulse_eq hn inv, claimedPulse_eq]

end Sys2Proof.Machine

/-! ## State: the register window (spec/10_state.md R23 to R51) -/

namespace Sys2Proof.Machine

/-! ### Names and offsets -/

theorem offsetOf_mem_claimedOffsets (r : Reg) : (offsetOf r, r) ∈ claimedOffsets := by
  cases r with
  | sp a | meas a | kp a | ki a | kd a | maxi a | integ a | lastErr a | pidOut a => cases a <;> decide
  | offset m | out m => cases m <;> decide
  | _ => decide

set_option maxRecDepth 4096 in
theorem slotAt_eq_none_iff : ∀ addr : Addr, aligned addr = true → (slotAt addr = none ↔ addr ∈ reservedOffsets) := by
  decide

theorem aligned_iff (addr : Addr) : aligned addr = true ↔ addr.toNat % 4 = 0 := by
  simp [aligned, ← BitVec.toNat_inj]

/-- Settles O9: the table row by row, the map over all 256 addresses. -/
theorem registerMapIsOneToOne : Obligations.RegisterMapIsOneToOne :=
  ⟨by decide, fun r => ⟨offsetOf r, offsetOf_mem_claimedOffsets r⟩,
    fun r => ⟨slotAt_offsetOf r, aligned_offsetOf r⟩, fun addr r h => (offsetOf_of_slotAt addr r h).symm,
    slotAt_eq_none_iff, aligned_iff⟩

/-! ### Reserved offsets -/

theorem aligned_of_mem_reservedOffsets : ∀ addr ∈ reservedOffsets, aligned addr = true := by decide

theorem slotAt_of_mem_reservedOffsets {addr : Addr} (h : addr ∈ reservedOffsets) : slotAt addr = none :=
  (slotAt_eq_none_iff addr (aligned_of_mem_reservedOffsets addr h)).2 h

theorem memRead_reserved {addr : Addr} (h : addr ∈ reservedOffsets) (s : State) : memRead addr s = 0 := by
  simp [memRead, aligned_of_mem_reservedOffsets addr h, slotAt_of_mem_reservedOffsets h]

theorem addrInfo_eq_ofNat (addr : Addr) : addrInfo addr = BitVec.ofNat 32 addr.toNat :=
  (BitVec.ofNat_toNat 32 addr).symm

theorem memWrite_reserved {addr : Addr} (h : addr ∈ reservedOffsets) (w : Word) (s : State) :
    memWrite addr w s = .next (raiseError .busReserved (BitVec.ofNat 32 addr.toNat) s) := by
  simp [memWrite, aligned_of_mem_reservedOffsets addr h, slotAt_of_mem_reservedOffsets h, addrInfo_eq_ofNat]

/-! ### STATUS -/

theorem toNat_append_eq_add {m n : Nat} (x : BitVec m) (y : BitVec n) :
    (x ++ y).toNat = x.toNat * 2 ^ n + y.toNat := by
  rw [BitVec.toNat_append, ← Nat.shiftLeft_add_eq_or_of_lt y.isLt, Nat.shiftLeft_eq]

/-- R25: the STATUS word as a number. -/
theorem statusWord_toNat (s : State) :
    (statusWord s).toNat = (causeCode s.errCause).toNat * 2 ^ 8 + s.errBus.toNat * 2 ^ 6 + s.errCfg.toNat * 2 ^ 5 +
      s.errCmd.toNat * 2 ^ 4 + s.stop.toNat * 2 ^ 2 + (modeCode s.mode).toNat := by
  simp only [statusWord, toNat_append_eq_add, BitVec.toNat_ofBool, BitVec.ofNat_eq_ofNat, BitVec.toNat_ofNat]
  omega

theorem modeCode_toNat (m : Mode) : (modeCode m).toNat = match m with | .idle => 0 | .arming => 1 | .armed => 2 := by
  cases m <;> rfl

theorem causeCode_toNat (c : ErrorCause) :
    (causeCode c).toNat = match c with
      | .none => 0 | .cmdUnknown => 1 | .cmdReserved => 2 | .cmdMode => 3 | .cfgLocked => 4 | .busMisaligned => 5
      | .busReadonly => 6 | .busReserved => 7 := by
  cases c <;> rfl

theorem statusWord_mod (s : State) : (statusWord s).toNat % 4 = (modeCode s.mode).toNat := by
  have := (modeCode s.mode).isLt
  rw [statusWord_toNat]
  omega

theorem statusWord_div (s : State) : (statusWord s).toNat / 2 ^ 8 = (causeCode s.errCause).toNat := by
  have := (modeCode s.mode).isLt
  have := s.stop.toNat_le
  have := s.errCmd.toNat_le
  have := s.errCfg.toNat_le
  have := s.errBus.toNat_le
  rw [statusWord_toNat]
  omega

/-- R25: the single bits of the STATUS word. -/
theorem statusWord_bits (s : State) :
    (statusWord s).getLsbD 2 = s.stop ∧ (statusWord s).getLsbD 3 = false ∧ (statusWord s).getLsbD 4 = s.errCmd ∧
    (statusWord s).getLsbD 5 = s.errCfg ∧ (statusWord s).getLsbD 6 = s.errBus ∧
    (statusWord s).getLsbD 7 = false := by
  simp only [statusWord, BitVec.getLsbD_append, BitVec.getLsbD_ofBool]
  simp

theorem memRead_status (s : State) : memRead 0x04 s = statusWord s := memRead_offsetOf .status s

/-- Settles O23: the STATUS word as a number gives its end fields, its single bits the others. -/
theorem statusWordFields : Obligations.StatusWordFields := by
  intro s
  obtain ⟨hstop, h3, hcmd, hcfg, hbus, h7⟩ := statusWord_bits s
  rw [memRead_status]
  exact ⟨(statusWord_mod s).trans (modeCode_toNat _), hstop, h3, hcmd, hcfg, hbus, h7,
    (statusWord_div s).trans (causeCode_toNat _)⟩

/-- Settles O12: a reserved offset has no slot; the bits above ERR_CAUSE are the quotient by 2^8 of the STATUS word. -/
theorem reservedOffsetHoldsNothing : Obligations.ReservedOffsetHoldsNothing := by
  intro s addr w h
  obtain ⟨-, h3, -, -, -, h7⟩ := statusWord_bits s
  have hcause := statusWord_div s
  have hlt := (causeCode s.errCause).isLt
  rw [memRead_status]
  exact ⟨memRead_reserved h s, memWrite_reserved h w s, rfl, h3, h7, by omega⟩

/-! ### Read forms -/

/-- A register whose read form is a sign extension reads as `word32` of its value. -/
theorem memRead_signed {n : Nat} {x : BitVec n} {s : State} (r : Reg) (h : readReg r s = x.signExtend 32) :
    memRead (offsetOf r) s = word32 x.toInt :=
  (memRead_offsetOf r s).trans h

theorem memRead_unsigned {n : Nat} {x : BitVec n} {s : State} (r : Reg) (h : readReg r s = x.setWidth 32) :
    memRead (offsetOf r) s = BitVec.ofNat 32 x.toNat := by
  rw [memRead_offsetOf, h, BitVec.ofNat_toNat]

theorem memRead_word {x : Word} {s : State} (r : Reg) (h : readReg r s = x) :
    memRead (offsetOf r) s = word32 x.toInt := by
  rw [memRead_offsetOf, h, word32, BitVec.ofInt_toInt]

/-- Settles O60: each offset is its register's own, so the read is that register's read form. -/
theorem eachOffsetReadsItsRegister : Obligations.EachOffsetReadsItsRegister := by
  intro s
  refine ⟨⟨memRead_offsetOf .cmd s, memRead_offsetOf .errInfo s, memRead_offsetOf .throttle s⟩, ?angles, ?gains,
    ?shared, ?pulses, ?controller, ?outputs⟩
  case angles =>
    exact ⟨memRead_signed (.sp .roll) rfl, memRead_signed (.sp .pitch) rfl, memRead_signed (.sp .yaw) rfl,
      memRead_signed (.meas .roll) rfl, memRead_signed (.meas .pitch) rfl, memRead_signed (.meas .yaw) rfl⟩
  case gains =>
    exact ⟨memRead_signed (.kp .roll) rfl, memRead_signed (.ki .roll) rfl, memRead_signed (.kd .roll) rfl,
      memRead_unsigned (.maxi .roll) rfl,
      memRead_signed (.kp .pitch) rfl, memRead_signed (.ki .pitch) rfl, memRead_signed (.kd .pitch) rfl,
      memRead_unsigned (.maxi .pitch) rfl,
      memRead_signed (.kp .yaw) rfl, memRead_signed (.ki .yaw) rfl, memRead_signed (.kd .yaw) rfl,
      memRead_unsigned (.maxi .yaw) rfl⟩
  case shared =>
    exact ⟨memRead_unsigned .iscale rfl, memRead_unsigned .pscale rfl, memRead_unsigned .thrGain rfl,
      memRead_unsigned .mixSign rfl,
      memRead_signed (.offset .a) rfl, memRead_signed (.offset .b) rfl, memRead_signed (.offset .c) rfl,
      memRead_signed (.offset .d) rfl⟩
  case pulses =>
    exact ⟨memRead_unsigned .minPulse rfl, memRead_unsigned .maxPulse rfl, memRead_unsigned .armPulse rfl,
      memRead_unsigned .armRampStep rfl, memRead_unsigned .armThresh rfl, memRead_unsigned .ramp rfl⟩
  case controller =>
    exact ⟨memRead_word (.integ .roll) rfl, memRead_word (.integ .pitch) rfl, memRead_word (.integ .yaw) rfl,
      memRead_word (.lastErr .roll) rfl, memRead_word (.lastErr .pitch) rfl, memRead_word (.lastErr .yaw) rfl,
      memRead_word (.pidOut .roll) rfl, memRead_word (.pidOut .pitch) rfl, memRead_word (.pidOut .yaw) rfl⟩
  case outputs =>
    exact ⟨memRead_unsigned (.out .a) rfl, memRead_unsigned (.out .b) rfl, memRead_unsigned (.out .c) rfl,
      memRead_unsigned (.out .d) rfl⟩

/-! ### Reads determine the registers -/

theorem eq_of_signExtend_eq {n : Nat} {x y : BitVec n} (h : x.signExtend 32 = y.signExtend 32)
    (hn : n ≤ 32 := by decide) : x = y := by
  rw [← BitVec.toInt_inj, ← BitVec.toInt_signExtend_of_le hn, h, BitVec.toInt_signExtend_of_le hn]

theorem eq_of_setWidth_eq {n : Nat} {x y : BitVec n} (h : x.setWidth 32 = y.setWidth 32)
    (hn : n ≤ 32 := by decide) : x = y := by
  rw [← BitVec.toNat_inj, ← BitVec.toNat_setWidth_of_le hn, h, BitVec.toNat_setWidth_of_le hn]

theorem modeCode_injective : Function.Injective modeCode := by
  intro m m' h
  cases m <;> cases m' <;> simp [modeCode] at h ⊢

theorem causeCode_injective : Function.Injective causeCode := by
  intro c c' h
  cases c <;> cases c' <;> simp [causeCode] at h ⊢

section Reads

variable {s t : State} (h : ∀ r, readReg r s = readReg r t)
include h

theorem axisOf_eq_of_reads (a : Axis) : axisOf s a = axisOf t a :=
  AxisRegs.ext (eq_of_signExtend_eq (h (.sp a))) (eq_of_signExtend_eq (h (.meas a)))
    (eq_of_signExtend_eq (h (.kp a))) (eq_of_signExtend_eq (h (.ki a))) (eq_of_signExtend_eq (h (.kd a)))
    (eq_of_setWidth_eq (h (.maxi a))) (h (.integ a)) (h (.lastErr a)) (h (.pidOut a))

theorem motorOf_eq_of_reads (m : Motor) : motorOf s m = motorOf t m :=
  MotorRegs.ext (eq_of_signExtend_eq (h (.offset m))) (eq_of_setWidth_eq (h (.out m)))

theorem throttle_eq_of_reads : s.throttle = t.throttle := by
  have hread : BitVec.ofNat 32 s.throttle.val = BitVec.ofNat 32 t.throttle.val := h .throttle
  have hval := congrArg BitVec.toNat hread
  simp only [BitVec.toNat_ofNat] at hval
  omega

end Reads

/-- Settles O22: every field of the state is read back from its own register, injectively. -/
theorem readsDetermineTheState : Obligations.ReadsDetermineTheState := by
  intro s t hmem hevents hpending hanswers
  have h (r : Reg) : readReg r s = readReg r t := by
    rw [← memRead_offsetOf, hmem, memRead_offsetOf]
  have hstatus : statusWord s = statusWord t := h .status
  obtain ⟨hstop, -, hcmd, hcfg, hbus, -⟩ := statusWord_bits s
  obtain ⟨hstop', -, hcmd', hcfg', hbus', -⟩ := statusWord_bits t
  apply State.ext
  case mode => exact modeCode_injective (BitVec.eq_of_toNat_eq (by rw [← statusWord_mod, hstatus, statusWord_mod]))
  case stop => rw [← hstop, hstatus, hstop']
  case errCmd => rw [← hcmd, hstatus, hcmd']
  case errCfg => rw [← hcfg, hstatus, hcfg']
  case errBus => rw [← hbus, hstatus, hbus']
  case errCause =>
    exact causeCode_injective (BitVec.eq_of_toNat_eq (by rw [← statusWord_div, hstatus, statusWord_div]))
  case errInfo => exact h .errInfo
  case throttle => exact throttle_eq_of_reads h
  case roll => exact axisOf_eq_of_reads h .roll
  case pitch => exact axisOf_eq_of_reads h .pitch
  case yaw => exact axisOf_eq_of_reads h .yaw
  case iscale => exact eq_of_setWidth_eq (h .iscale)
  case pscale => exact eq_of_setWidth_eq (h .pscale)
  case thrGain => exact eq_of_setWidth_eq (h .thrGain)
  case mixSign => exact eq_of_setWidth_eq (h .mixSign)
  case motorA => exact motorOf_eq_of_reads h .a
  case motorB => exact motorOf_eq_of_reads h .b
  case motorC => exact motorOf_eq_of_reads h .c
  case motorD => exact motorOf_eq_of_reads h .d
  case minPulse => exact eq_of_setWidth_eq (h .minPulse)
  case maxPulse => exact eq_of_setWidth_eq (h .maxPulse)
  case armPulse => exact eq_of_setWidth_eq (h .armPulse)
  case armRampStep => exact eq_of_setWidth_eq (h .armRampStep)
  case armThresh => exact eq_of_setWidth_eq (h .armThresh)
  case ramp => exact eq_of_setWidth_eq (h .ramp)
  case events => exact hevents
  case pending => exact hpending
  case answers => exact hanswers

end Sys2Proof.Machine

/-! ## State: what each writable register stores (spec/10_state.md R30 to R43) -/

namespace Sys2Proof.Machine

/-- R45, R77: the registers a bus write stores to in a mode. -/
def Writable (r : Reg) (mode : Mode) : Prop := accessOf r = .readWrite ∨ accessOf r = .config ∧ mode = .idle

theorem storeReg_mode (r : Reg) (w : Word) (s : State) : (storeReg r w s).mode = s.mode := (storeReg_keeps r w s).1

theorem storeReg_stop (r : Reg) (w : Word) (s : State) : (storeReg r w s).stop = s.stop := (storeReg_keeps r w s).2.1

theorem storeReg_events (r : Reg) (w : Word) (s : State) : (storeReg r w s).events = s.events :=
  (storeReg_keeps r w s).2.2.1

/-- A write to a register that takes one stores the word by that register's own rule. -/
theorem memWrite_store {r : Reg} {s : State} (hr : Writable r s.mode) (w : Word) :
    memWrite (offsetOf r) w s = .next (storeReg r w s) := by
  rw [memWrite_offsetOf, writeReg]
  rcases hr with hacc | ⟨hacc, hidle⟩
  · rw [hacc]
  · rw [hacc, if_pos hidle]

/-- What a store does, for a register in which two things are to be said of the state after. -/
theorem exists_store {r : Reg} {s : State} {w : Word} {stored reads : State → Prop} (hr : Writable r s.mode)
    (hstored : stored (storeReg r w s)) (hreads : reads (storeReg r w s)) :
    ∃ t, memWrite (offsetOf r) w s = .next t ∧ stored t ∧ reads t ∧ unchangedExcept [r] s t ∧ t.events = s.events :=
  ⟨storeReg r w s, memWrite_store hr w, hstored, hreads, unchangedExcept_storeReg r w s, storeReg_events r w s⟩

/-! ### The WARL rules as arithmetic -/

theorem low_toNat (w : Word) (n : Nat) : (w.extractLsb' 0 n).toNat = w.toNat % 2 ^ n :=
  BitVec.extractLsb'_toNat 0 n w

theorem toInt_eq_sextN {n : Nat} (hn : 0 < n) (x : BitVec n) : x.toInt = sextN n x.toNat := by
  have hpow : 2 ^ n = 2 * 2 ^ (n - 1) := by rw [← pow_succ', Nat.sub_add_cancel hn]
  rw [BitVec.toInt_eq_toNat_cond, sextN]
  push_cast
  congr 1
  rw [hpow]
  simp

theorem low_toInt (w : Word) {n : Nat} (hn : 0 < n) : (w.extractLsb' 0 n).toInt = sextN n (w.toNat % 2 ^ n) := by
  rw [toInt_eq_sextN hn, low_toNat]

theorem warlThrottle_val (w : Word) : ((warlThrottle w).val : Int) = clamp w.toInt 0 1000 := by
  have hlo : 0 ≤ clamp w.toInt 0 1000 := lower_le_clamp (by decide)
  have hhi := clamp_le_upper w.toInt 0 1000
  rw [warlThrottle, Fin.val_ofNat, Nat.mod_eq_of_lt (by omega), Int.toNat_of_nonneg hlo]

theorem warlMaxI_toNat (w : Word) : (warlMaxI w).toNat = if w.toNat < 2 ^ 31 then w.toNat else 0 := by
  have hsign : w.getLsbD 31 = decide (2 ^ 31 ≤ w.toNat) := BitVec.msb_eq_decide w
  by_cases hw : w.toNat < 2 ^ 31
  · rw [warlMaxI, hsign, decide_eq_false (by omega), if_neg (by decide), low_toNat, Nat.mod_eq_of_lt hw, if_pos hw]
  · rw [warlMaxI, hsign, decide_eq_true (by omega), if_pos rfl, if_neg hw]
    rfl

theorem warlDivisor_toNat (w : Word) : (warlDivisor w).toNat = max (w.toNat % 2 ^ 16) 1 := by
  unfold warlDivisor
  split
  · next hzero =>
    have hlow : w.toNat % 2 ^ 16 = 0 := by rw [← low_toNat, hzero]; rfl
    rw [hlow]
    rfl
  · next hne =>
    have hlow : w.toNat % 2 ^ 16 ≠ 0 := fun h => hne (BitVec.eq_of_toNat_eq ((low_toNat w 16).trans h))
    rw [low_toNat]
    omega

/-! ### Inputs -/

/-- Settles O15: THROTTLE takes a write in every mode, and stores the clamped word. -/
theorem throttleStoresTheClampedWord : Obligations.ThrottleStoresTheClampedWord := by
  intro s w
  exact ⟨storeReg .throttle w s, memWrite_store (r := .throttle) (.inl rfl) w, warlThrottle_val w,
    memRead_offsetOf .throttle _, storeReg_stop .throttle w s, unchangedExcept_storeReg .throttle w s,
    storeReg_events .throttle w s⟩

theorem storeReg_angle_toInt (a : Axis) (w : Word) (s : State) :
    (axisOf (storeReg (.sp a) w s) a).sp.toInt = sextN 24 (w.toNat % 2 ^ 24) ∧
    (axisOf (storeReg (.meas a) w s) a).meas.toInt = sextN 24 (w.toNat % 2 ^ 24) := by
  simp only [storeReg, axisOf_setAxis_same]
  exact ⟨low_toInt w (by decide), low_toInt w (by decide)⟩

/-- Settles O16: what is read is the sign extension of what is stored. -/
theorem angleStoresTwentyFourBits : Obligations.AngleStoresTwentyFourBits := by
  intro s a w
  obtain ⟨hsp, hmeas⟩ := storeReg_angle_toInt a w s
  exact ⟨exists_store (.inl rfl) hsp ((memRead_signed (.sp a) rfl).trans (congrArg word32 hsp)),
    exists_store (.inl rfl) hmeas ((memRead_signed (.meas a) rfl).trans (congrArg word32 hmeas))⟩

/-! ### Configuration -/

theorem storeReg_gain_toInt (a : Axis) (w : Word) (s : State) :
    (axisOf (storeReg (.kp a) w s) a).kp.toInt = sextN 16 (w.toNat % 2 ^ 16) ∧
    (axisOf (storeReg (.ki a) w s) a).ki.toInt = sextN 16 (w.toNat % 2 ^ 16) ∧
    (axisOf (storeReg (.kd a) w s) a).kd.toInt = sextN 16 (w.toNat % 2 ^ 16) := by
  simp only [storeReg, axisOf_setAxis_same]
  exact ⟨low_toInt w (by decide), low_toInt w (by decide), low_toInt w (by decide)⟩

theorem storeReg_offset_toInt (m : Motor) (w : Word) (s : State) :
    (motorOf (storeReg (.offset m) w s) m).offset.toInt = sextN 16 (w.toNat % 2 ^ 16) := by
  rw [storeReg, motorOf_setMotor_same]
  exact low_toInt w (by decide)

/-- Settles O17: what is read is the sign extension of what is stored. -/
theorem gainAndOffsetStoreSixteenBits : Obligations.GainAndOffsetStoreSixteenBits := by
  intro s r w hidle hr
  have hgain (a : Axis) := storeReg_gain_toInt a w s
  have hoffset (m : Motor) := storeReg_offset_toInt m w s
  have hacc : accessOf r = .config := by rcases hr with ⟨a, rfl | rfl | rfl⟩ | ⟨m, rfl⟩ <;> rfl
  have hread : memRead (offsetOf r) (storeReg r w s) = word32 (sextN 16 (w.toNat % 2 ^ 16)) := by
    rcases hr with ⟨a, rfl | rfl | rfl⟩ | ⟨m, rfl⟩
    · exact (memRead_signed (.kp a) rfl).trans (congrArg word32 (hgain a).1)
    · exact (memRead_signed (.ki a) rfl).trans (congrArg word32 (hgain a).2.1)
    · exact (memRead_signed (.kd a) rfl).trans (congrArg word32 (hgain a).2.2)
    · exact (memRead_signed (.offset m) rfl).trans (congrArg word32 (hoffset m))
  refine ⟨storeReg r w s, memWrite_store (.inr ⟨hacc, hidle⟩) w, hread, fun a => ?_, ?_,
    unchangedExcept_storeReg r w s, storeReg_events r w s⟩
  · obtain ⟨hkp, hki, hkd⟩ := hgain a
    exact ⟨fun h => h ▸ hkp, fun h => h ▸ hki, fun h => h ▸ hkd⟩
  · rintro m rfl
    exact hoffset m

/-- Settles O18: bit 31 is the word's sign, and the value stored is `warlMaxI`'s. -/
theorem integralBoundStoresNonNegative : Obligations.IntegralBoundStoresNonNegative := by
  intro s a w hidle
  have hstored : (axisOf (storeReg (.maxi a) w s) a).maxi.toNat = if w.toNat < 2 ^ 31 then w.toNat else 0 := by
    rw [storeReg, axisOf_setAxis_same]
    exact warlMaxI_toNat w
  exact exists_store (.inr ⟨rfl, hidle⟩) hstored (memRead_unsigned (.maxi a) rfl)

/-- Settles O19: in Idle both divisors store by `warlDivisor`. -/
theorem divisorStoresAtLeastOne : Obligations.DivisorStoresAtLeastOne := by
  intro s w hidle
  exact ⟨exists_store (r := .iscale) (.inr ⟨rfl, hidle⟩) (warlDivisor_toNat w) (memRead_unsigned .iscale rfl),
    exists_store (r := .pscale) (.inr ⟨rfl, hidle⟩) (warlDivisor_toNat w) (memRead_unsigned .pscale rfl)⟩

/-- Settles O20: each register stores the word's low bits, and a read zero-extends them. -/
theorem unsignedFieldsStoreTheirLowBits : Obligations.UnsignedFieldsStoreTheirLowBits := by
  intro s w hidle
  have low_read (r : Reg) (n : Nat) (h : readReg r (storeReg r w s) = (w.extractLsb' 0 n).setWidth 32) :
      memRead (offsetOf r) (storeReg r w s) = BitVec.ofNat 32 (w.toNat % 2 ^ n) := by
    rw [memRead_unsigned r h, low_toNat]
  exact ⟨exists_store (r := .thrGain) (.inr ⟨rfl, hidle⟩) (low_toNat w 16) (low_read .thrGain 16 rfl),
    exists_store (r := .mixSign) (.inr ⟨rfl, hidle⟩) (low_toNat w 12) (low_read .mixSign 12 rfl),
    exists_store (r := .minPulse) (.inr ⟨rfl, hidle⟩) (low_toNat w 16) (low_read .minPulse 16 rfl),
    exists_store (r := .maxPulse) (.inr ⟨rfl, hidle⟩) (low_toNat w 16) (low_read .maxPulse 16 rfl),
    exists_store (r := .armPulse) (.inr ⟨rfl, hidle⟩) (low_toNat w 16) (low_read .armPulse 16 rfl),
    exists_store (r := .armRampStep) (.inr ⟨rfl, hidle⟩) (low_toNat w 16) (low_read .armRampStep 16 rfl),
    exists_store (r := .armThresh) (.inr ⟨rfl, hidle⟩) (low_toNat w 24) (low_read .armThresh 24 rfl)⟩

end Sys2Proof.Machine

/-! ## State: what one action does (spec/10_state.md)

Every statement about a step goes through one relation, `Effect`: the host's action against the state it leads to. -/

namespace Sys2Proof.Machine

/-- Everything an action does to the block in state `s`. An error comes of a bus write only, whether the bus, the
configuration lock or the command refuses it; a command has its meaning's guard as a premise. -/
inductive Effect (s : State) : HostAction → State → Prop where
  | read (addr : Addr) :
      Effect s (.bus (.read addr)) { s with answers := s.answers ++ [memRead addr s] }
  | reset {act : HostAction} (hact : isReset act = true) : Effect s act (resetBlock s)
  | error (addr : Addr) (w : Word) (cause : ErrorCause) (info : Word) (hcause : cause ≠ .none) :
      Effect s (.bus (.write addr w)) (raiseError cause info s)
  | store (r : Reg) (w : Word) (hr : Writable r s.mode) :
      Effect s (.bus (.write (offsetOf r) w)) (storeReg r w s)
  | nop : Effect s (issue .nop) s
  | tick (hm : s.mode = .armed) : Effect s (issue .tick) (emitFrame (tickPulse s) (pidPhase s))
  | armBegin (hm : s.mode = .idle) :
      Effect s (issue .armBegin) { s with ramp := rampStart s, mode := .arming }
  | armBeginAgain (hm : s.mode = .arming) : Effect s (issue .armBegin) s
  | armExit (hm : s.mode = .arming) (hx : armExit s = true) :
      Effect s (issue .armStep) { s with throttle := 0, mode := .armed }
  | armDrive (hm : s.mode = .arming) (hx : armExit s = false) : Effect s (issue .armStep) (rampOutputStep s)
  | stopSet : Effect s (issue .stopSet) { s with stop := true }
  | stopClr : Effect s (issue .stopClr) { s with stop := false }
  | errClr : Effect s (issue .errClr) (clearErrors s)

theorem effect_of_exec {i : Instr} {s t : State} (h : exec i s = .next t) : Effect s (issue i) t := by
  rcases exec_cases h with ⟨rfl, rfl⟩ | ⟨rfl, hm, rfl⟩ | ⟨rfl, hm, rfl⟩ | ⟨rfl, hm, rfl⟩ | ⟨rfl, hm, hx, rfl⟩ |
    ⟨rfl, hm, hx, rfl⟩ | ⟨rfl, rfl⟩ | ⟨rfl, rfl⟩ | ⟨rfl, rfl⟩ | ⟨-, rfl⟩
  · exact .nop
  · exact .tick hm
  · exact .armBegin hm
  · exact .armBeginAgain hm
  · exact .armExit hm hx
  · exact .armDrive hm hx
  · exact .stopSet
  · exact .stopClr
  · exact .errClr
  · exact .error _ _ _ _ (by decide)

theorem effect_of_memWrite {addr : Addr} {w : Word} {s t : State} (h : memWrite addr w s = .next t) :
    Effect s (.bus (.write addr w)) t := by
  rcases memWrite_cases h with ⟨cause, info, hcause, rfl⟩ | ⟨r, rfl, hr, rfl⟩ | ⟨i, rfl, rfl, hexec⟩
  · exact .error _ _ _ _ hcause
  · exact .store _ _ hr
  · exact effect_of_exec hexec

/-- A step is the effect of the host's next action, taken off the list. -/
theorem effect_of_step {s t : State} {act : HostAction} {rest : List HostAction} (hp : s.pending = act :: rest)
    (h : step s = .next t) : Effect { s with pending := rest } act t := by
  rcases step_cases hp h with ⟨addr, rfl, rfl⟩ | ⟨addr, w, rfl, hwrite⟩ | ⟨hact, rfl⟩
  · exact .read addr
  · exact effect_of_memWrite hwrite
  · exact .reset hact

/-- Settles O25: the write reaches CMD, whose word is decoded and run. -/
theorem stepRunsTheDecodedCommand : Obligations.StepRunsTheDecodedCommand := by
  intro s w i rest hp hdecode _
  simp only [step, hp, perform, memWrite_cmd, execute, hdecode]

end Sys2Proof.Machine

/-! ## State: who writes what (spec/10_state.md R24 to R50) -/

namespace Sys2Proof.Machine

/-! ### What each command leaves readable -/

/-- Taking an action off the host's list changes nothing that is read. -/
@[simp] theorem readReg_pending (r : Reg) (s : State) (rest : List HostAction) :
    readReg r { s with pending := rest } = readReg r s := readReg_host r s s.events rest s.answers

@[simp] theorem readReg_answers (r : Reg) (s : State) (words : List Word) :
    readReg r { s with answers := words } = readReg r s := readReg_host r s s.events s.pending words

theorem readReg_tick {p : Motor → BitVec 16} {s : State} {r : Reg} (hr : r ∉ tickWrites) :
    readReg r (emitFrame p (pidPhase s)) = readReg r s := by
  cases r with
  | sp a | meas a | kp a | ki a | kd a | maxi a => simp [readReg, pidAxisRegs]
  | integ a | lastErr a | pidOut a => cases a <;> simp [tickWrites] at hr
  | offset m => simp [readReg]
  | out m => cases m <;> simp [tickWrites] at hr
  | _ => rfl

theorem readReg_armBegin {v : BitVec 16} {s : State} {r : Reg} (hr : r ∉ [.status, .ramp]) :
    readReg r { s with ramp := v, mode := .arming } = readReg r s := by
  cases r with
  | status | ramp => simp at hr
  | _ => rfl

theorem readReg_armExit {s : State} {r : Reg} (hr : r ∉ [.status, .throttle]) :
    readReg r { s with throttle := 0, mode := .armed } = readReg r s := by
  cases r with
  | status | throttle => simp at hr
  | _ => rfl

theorem readReg_rampOutputStep {s : State} {r : Reg} (hr : r ∉ [.ramp, .out .a, .out .b, .out .c, .out .d]) :
    readReg r (rampOutputStep s) = readReg r s := by
  cases r with
  | ramp => simp at hr
  | offset m => cases m <;> rfl
  | out m => cases m <;> simp at hr
  | _ => rfl

theorem readReg_stop {b : Bool} {s : State} {r : Reg} (hr : r ≠ .status) :
    readReg r { s with stop := b } = readReg r s := by
  cases r with
  | status => exact absurd rfl hr
  | _ => rfl

theorem readReg_clearErrors {s : State} {r : Reg} (h1 : r ≠ .status) (h2 : r ≠ .errInfo) :
    readReg r (clearErrors s) = readReg r s := by
  cases r with
  | status => exact absurd rfl h1
  | errInfo => exact absurd rfl h2
  | _ => rfl

/-! ### The writers that `mayChange` names -/

/-- STATUS and ERR_INFO have statements of their own: `mayChange` lets every action change them. -/
theorem mayChange_record {r : Reg} {act : HostAction} {mode : Mode} (hr : r ≠ .status → r ≠ .errInfo → False) :
    mayChange r act mode := by
  cases r with
  | status | errInfo => trivial
  | _ => exact (hr nofun nofun).elim

theorem mayChange_store {r : Reg} {mode : Mode} (hr : Writable r mode) (w : Word) :
    mayChange r (.bus (.write (offsetOf r) w)) mode := by
  cases r with
  | cmd | status | errInfo | integ a | ramp | lastErr a | pidOut a | out m => simp [Writable, accessOf] at hr
  | throttle => exact .inl ⟨w, rfl⟩
  | sp a | meas a => exact ⟨w, rfl⟩
  | _ => exact ⟨by simpa [Writable, accessOf] using hr, w, rfl⟩

theorem mayChange_tick {r : Reg} (hr : r ∈ tickWrites) : mayChange r (issue .tick) .armed := by
  cases r with
  | integ a | lastErr a | pidOut a => exact ⟨rfl, rfl⟩
  | out m => exact .inl ⟨rfl, rfl⟩
  | _ => simp [tickWrites] at hr

theorem mayChange_armBegin {r : Reg} (hr : r ∈ [.status, .ramp]) : mayChange r (issue .armBegin) .idle := by
  cases r with
  | status => trivial
  | ramp => exact .inl ⟨rfl, rfl⟩
  | _ => simp at hr

theorem mayChange_armExit {r : Reg} (hr : r ∈ [.status, .throttle]) : mayChange r (issue .armStep) .arming := by
  cases r with
  | status => trivial
  | throttle => exact .inr ⟨rfl, rfl⟩
  | _ => simp at hr

theorem mayChange_armDrive {r : Reg} (hr : r ∈ [.ramp, .out .a, .out .b, .out .c, .out .d]) :
    mayChange r (issue .armStep) .arming := by
  cases r with
  | ramp | out m => exact .inr ⟨rfl, rfl⟩
  | _ => simp at hr

theorem mayChange_of_effect {s t : State} {act : HostAction} (h : Effect s act t) {r : Reg}
    (hne : readReg r t ≠ readReg r s) : mayChange r act s.mode ∨ isReset act = true := by
  cases h with
  | read addr => exact absurd (readReg_answers r s _) hne
  | reset hact => exact .inr hact
  | error addr w cause info _ =>
    exact .inl (mayChange_record fun h1 h2 => hne (readReg_raiseError cause info s h1 h2))
  | store q w hq =>
    have hrq : r = q := by_contra fun hrq => hne (readReg_storeReg q w s hrq)
    exact .inl (hrq ▸ mayChange_store hq w)
  | nop | armBeginAgain => exact absurd rfl hne
  | tick hm => exact .inl (hm ▸ mayChange_tick (by_contra fun hr => hne (readReg_tick hr)))
  | armBegin hm => exact .inl (hm ▸ mayChange_armBegin (by_contra fun hr => hne (readReg_armBegin hr)))
  | armExit hm => exact .inl (hm ▸ mayChange_armExit (by_contra fun hr => hne (readReg_armExit hr)))
  | armDrive hm => exact .inl (hm ▸ mayChange_armDrive (by_contra fun hr => hne (readReg_rampOutputStep hr)))
  | stopSet | stopClr => exact .inl (mayChange_record fun h1 _ => hne (readReg_stop h1))
  | errClr => exact .inl (mayChange_record fun h1 h2 => hne (readReg_clearErrors h1 h2))

/-- Settles O54, by the effect of the action: outside the registers it writes each leaves every read as it was. -/
theorem registersChangeOnlyByTheirWriters : Obligations.RegistersChangeOnlyByTheirWriters := by
  intro s t act rest r hp h hne
  rw [memRead_offsetOf, memRead_offsetOf, ← readReg_pending r s rest] at hne
  exact mayChange_of_effect (effect_of_step hp h) hne

/-! ### STOP, MODE and the events -/

/-- Settles O38, by the effect of the action: every other effect keeps the latch. -/
theorem stopLatchWriters : Obligations.StopLatchWriters := by
  intro s t act rest hp h hne
  cases effect_of_step hp h with
  | reset hact => exact .inr (.inr ⟨hact, rfl⟩)
  | stopSet => exact .inl ⟨rfl, rfl⟩
  | stopClr => exact .inr (.inl ⟨rfl, rfl⟩)
  | store r w _ => exact absurd (storeReg_stop r w _) hne
  | _ => exact absurd rfl hne

/-- Settles O53: the field of the STATUS word, and then the effect of the action. -/
theorem modeWriters : Obligations.ModeWriters := by
  refine ⟨fun s => (statusWordFields s).1, fun s t act rest hp h hne => ?_⟩
  cases effect_of_step hp h with
  | reset hact => exact .inr (.inr ⟨hact, rfl⟩)
  | armBegin hm => exact .inl ⟨rfl, hm, rfl⟩
  | armExit hm _ => exact .inr (.inl ⟨rfl, hm, rfl⟩)
  | store r w _ => exact absurd (storeReg_mode r w _) hne
  | _ => exact absurd rfl hne

/-- Settles O55, by the effect of the action: only TICK and the arming pass call emitFrame. -/
theorem eventsComeInWholeFrames : Obligations.EventsComeInWholeFrames := by
  intro s t act rest hp h
  cases effect_of_step hp h with
  | tick hm => exact .inr ⟨rfl, .inl ⟨rfl, hm⟩⟩
  | armDrive hm _ => exact .inr ⟨rfl, .inr ⟨rfl, hm⟩⟩
  | store r w _ => exact .inl (storeReg_events r w _)
  | _ => exact .inl rfl

/-- Settles O30, by the effect of the action: a further error keeps the recorded cause and only sets class bits. -/
theorem firstErrorStaysOnRecord : Obligations.FirstErrorStaysOnRecord := by
  intro s t act rest hp h hcause hclr hreset
  cases effect_of_step hp h with
  | reset hact => simp [hact] at hreset
  | errClr => exact absurd rfl hclr
  | error addr w cause info _ => simp +contextual [hcause]
  | store r w _ =>
    obtain ⟨-, -, -, hcmd, hcfg, hbus, hc, hi⟩ := storeReg_keeps r w { s with pending := rest }
    exact ⟨hc, hi, hcmd.trans, hcfg.trans, hbus.trans⟩
  | _ => exact ⟨rfl, rfl, id, id, id⟩

end Sys2Proof.Machine

/-! ## State: the invariant (spec/10_state.md R44 to R50, R54)

One lemma for each effect of an action. An operation that leaves a field's registers alone hands that field on. -/

namespace Sys2Proof.Machine

/-! ### The host's side, the error record and reset -/

theorem inv_pending {s : State} (inv : Inv s) (rest : List HostAction) : Inv { s with pending := rest } := { inv with }

theorem inv_answers {s : State} (inv : Inv s) (words : List Word) : Inv { s with answers := words } := { inv with }

theorem raiseError_errCause_ne_none {cause : ErrorCause} (hcause : cause ≠ .none) (info : Word) (s : State) :
    (raiseError cause info s).errCause ≠ .none := by
  rw [raiseError_errCause]
  split <;> assumption

theorem inv_raiseError {s : State} (inv : Inv s) {cause : ErrorCause} (hcause : cause ≠ .none) (info : Word) :
    Inv (raiseError cause info s) :=
  have hrecorded := raiseError_errCause_ne_none hcause info s
  { inv with
    infoClear := fun h => absurd h hrecorded
    classClear := fun h => absurd h hrecorded
    classSet := by
      obtain ⟨hcmd, hcfg, hbus⟩ := inv.classSet
      by_cases hnone : s.errCause = .none
      · simp +contextual [hnone]
      · simp +contextual [hnone, hcmd, hcfg, hbus] }

theorem inv_clearErrors {s : State} (inv : Inv s) : Inv (clearErrors s) :=
  { inv with
    infoClear := fun _ => rfl
    classClear := fun _ => ⟨rfl, rfl, rfl⟩
    classSet := ⟨nofun, nofun, nofun⟩ }

theorem inv_resetBlock {s : State} (inv : Inv s) : Inv (resetBlock s) where
  iscalePositive := show (1 : BitVec 16) ≠ 0 by decide
  pscalePositive := show (1 : BitVec 16) ≠ 0 by decide
  integral a := by rw [axisOf_resetBlock]; decide
  lastErr a := by rw [axisOf_resetBlock]; decide
  atRest _ a := by rw [axisOf_resetBlock]; decide
  ramp := le_refl _
  rampIdle _ := rfl
  infoClear _ := rfl
  classClear _ := ⟨rfl, rfl, rfl⟩
  classSet := ⟨nofun, nofun, nofun⟩
  frames := inv.frames
  readBack := .inl fun m => by rw [motorOf_resetBlock]; rfl

/-! ### Stores -/

theorem forall_axisOf_setAxis {P : AxisRegs → Prop} {s : State} {x : AxisRegs} (a : Axis) (hx : P x)
    (h : ∀ b, P (axisOf s b)) (b : Axis) : P (axisOf (setAxis a x s) b) := by
  rcases eq_or_ne a b with rfl | hab
  · rwa [axisOf_setAxis_same]
  · rw [axisOf_setAxis_ne a b x s hab]
    exact h b

theorem inv_setAxis {s : State} (inv : Inv s) {a : Axis} {x : AxisRegs} (hinteg : integralBounded x)
    (hlast : lastErrBounded x) (hrest : s.mode ≠ .armed → axisAtRest x) : Inv (setAxis a x s) := by
  have integral := forall_axisOf_setAxis a hinteg inv.integral
  have lastErr := forall_axisOf_setAxis a hlast inv.lastErr
  have atRest (hm : s.mode ≠ .armed) := forall_axisOf_setAxis a (hrest hm) (inv.atRest hm)
  cases a <;> exact { inv with integral, lastErr, atRest }

theorem out_setMotor {s : State} {m : Motor} {x : MotorRegs} (hx : x.out = (motorOf s m).out) (n : Motor) :
    (motorOf (setMotor m x s) n).out = (motorOf s n).out := by
  rcases eq_or_ne m n with rfl | hmn
  · rwa [motorOf_setMotor_same]
  · rw [motorOf_setMotor_ne m n x s hmn]

theorem inv_setMotor {s : State} (inv : Inv s) {m : Motor} {x : MotorRegs} (hx : x.out = (motorOf s m).out) :
    Inv (setMotor m x s) := by
  have readBack : (∀ n, (motorOf (setMotor m x s) n).out = 0) ∨
      ∀ n, lastPulse s.events (channel n) = some (motorOf (setMotor m x s) n).out := by
    simpa only [out_setMotor hx] using inv.readBack
  cases m <;> exact { inv with readBack }

theorem warlDivisor_ne_zero (w : Word) : warlDivisor w ≠ 0 := by
  unfold warlDivisor
  split
  · decide
  · assumption

/-- A store keeps the invariant: a bound may change in Idle only, where the integral and the ramp are 0. -/
theorem inv_storeReg {s : State} (inv : Inv s) {r : Reg} (hr : Writable r s.mode) (w : Word) :
    Inv (storeReg r w s) := by
  cases r with
  | sp a | meas a | kp a | ki a | kd a =>
    exact inv_setAxis inv (inv.integral a) (inv.lastErr a) fun hm => inv.atRest hm a
  | maxi a =>
    have hidle : s.mode = .idle := by simpa [Writable, accessOf] using hr
    have hrest := inv.atRest (by simp [hidle]) a
    exact inv_setAxis inv (by simp [integralBounded, hrest.1]) (inv.lastErr a) fun _ => hrest
  | iscale => exact { inv with iscalePositive := warlDivisor_ne_zero w }
  | pscale => exact { inv with pscalePositive := warlDivisor_ne_zero w }
  | offset m => exact inv_setMotor inv rfl
  | armPulse =>
    have hidle : s.mode = .idle := by simpa [Writable, accessOf] using hr
    have hramp : s.ramp.toNat = 0 := congrArg BitVec.toNat (inv.rampIdle hidle)
    exact { inv with ramp := hramp.trans_le (Nat.zero_le _) }
  | _ => exact { inv with }

/-! ### Frames -/

theorem inFrames_append_frame {events : List Event} (h : inFrames events) (p : Motor → BitVec 16) :
    inFrames (events ++ frame p) := by
  induction events using inFrames.induct with
  | case1 => exact ⟨rfl, rfl, rfl, rfl, trivial⟩
  | case2 e0 e1 e2 e3 rest ih =>
    obtain ⟨h0, h1, h2, h3, hrest⟩ := h
    exact ⟨h0, h1, h2, h3, ih hrest⟩
  | case3 | case4 | case5 => exact h.elim

theorem lastPulse_append_frame (events : List Event) (p : Motor → BitVec 16) (m : Motor) :
    lastPulse (events ++ frame p) (channel m) = some (p m) := by
  rw [lastPulse, List.reverse_append]
  cases m <;> rfl

theorem inv_emitFrame {s : State} (inv : Inv s) (p : Motor → BitVec 16) : Inv (emitFrame p s) :=
  { inv with
    frames := inFrames_append_frame inv.frames p
    readBack := .inr fun m => by rw [emitFrame_events, lastPulse_append_frame, motorOf_emitFrame] }

/-! ### TICK -/

theorem pidAxisRegs_integ_toInt (s : State) (a : Axis) : (pidAxisRegs s a).integ.toInt = pidIntegral s a := by
  have hwithin := pidIntegral_within s a
  have hmaxi := maxi_le s a
  exact toInt_word32 (by omega) (by omega)

theorem pidAxisRegs_lastErr_toInt (s : State) (a : Axis) : (pidAxisRegs s a).lastErr.toInt = pidError s a := by
  have herror := abs_le.mp (abs_pidError_le s a)
  exact toInt_word32 (by omega) (by omega)

theorem integralBounded_pidAxisRegs (s : State) (a : Axis) : integralBounded (pidAxisRegs s a) := by
  rw [integralBounded, pidAxisRegs_integ_toInt]
  exact pidIntegral_within s a

theorem lastErrBounded_pidAxisRegs (s : State) (a : Axis) : lastErrBounded (pidAxisRegs s a) := by
  rw [lastErrBounded, pidAxisRegs_lastErr_toInt]
  exact abs_le.mp (abs_pidError_le s a)

theorem inv_pidPhase {s : State} (inv : Inv s) (hm : s.mode = .armed) : Inv (pidPhase s) :=
  { inv with
    integral := fun a => by rw [axisOf_pidPhase]; exact integralBounded_pidAxisRegs s a
    lastErr := fun a => by rw [axisOf_pidPhase]; exact lastErrBounded_pidAxisRegs s a
    atRest := fun h => absurd hm h }

/-! ### Arming -/

theorem inv_armBegin {s : State} (inv : Inv s) (hm : s.mode = .idle) :
    Inv { s with ramp := rampStart s, mode := .arming } :=
  { inv with
    atRest := fun _ => inv.atRest (by simp [hm])
    ramp := by
      have hstart := rampStart_toNat s
      show (rampStart s).toNat ≤ s.armPulse.toNat
      omega
    rampIdle := nofun }

theorem inv_armExit {s : State} (inv : Inv s) : Inv { s with throttle := 0, mode := .armed } :=
  { inv with
    atRest := fun h => absurd rfl h
    rampIdle := nofun }

theorem inv_rampOutputStep {s : State} (inv : Inv s) (hm : s.mode = .arming) : Inv (rampOutputStep s) :=
  { inv_emitFrame inv fun _ => rampPulse s with
    ramp := (rampNext_toNat s).trans_le (min_le_right _ _)
    rampIdle := fun h => nomatch hm.symm.trans h }

/-! ### Every effect -/

theorem inv_of_effect {s t : State} {act : HostAction} (inv : Inv s) (h : Effect s act t) : Inv t := by
  cases h with
  | read addr => exact inv_answers inv _
  | reset hact => exact inv_resetBlock inv
  | error addr w cause info hcause => exact inv_raiseError inv hcause info
  | store r w hr => exact inv_storeReg inv hr w
  | nop | armBeginAgain => exact inv
  | tick hm => exact inv_emitFrame (inv_pidPhase inv hm) _
  | armBegin hm => exact inv_armBegin inv hm
  | armExit hm hx => exact inv_armExit inv
  | armDrive hm hx => exact inv_rampOutputStep inv hm
  | stopSet | stopClr => exact { inv with }
  | errClr => exact inv_clearErrors inv

/-- Settles O58: a step waits, or it has the effect of the host's next action. -/
theorem everyStepKeepsTheInvariant : Obligations.EveryStepKeepsTheInvariant := by
  intro s t inv h
  cases hp : s.pending with
  | nil =>
    rw [step_waiting hp] at h
    cases h
    exact inv
  | cons act rest => exact inv_of_effect (inv_pending inv rest) (effect_of_step hp h)

end Sys2Proof.Machine

/-! ## State: noninterference, or what a step does not read (spec/10_state.md R28, R48, R50) -/

namespace Sys2Proof.Machine

/-! ### Operations and outcomes that agree

`f` forgets some fields of the state. When forgetting them before an operation makes no difference to what is left
after it, two states that agree but for those fields step to states that agree but for those fields. -/

/-- Forgetting before `op` makes no difference after it. -/
def Respects (f op : State → State) : Prop := ∀ s, f (op s) = f (op (f s))

theorem Respects.congr {f op : State → State} (h : Respects f op) {s s' : State} (hs : f s = f s') :
    f (op s) = f (op s') := by
  rw [h s, hs, ← h s']

/-- `f` forgets nothing a step reads: neither what chooses the branch a step takes, nor what a branch computes with. -/
structure Forgets (f : State → State) : Prop where
  mode : ∀ s, (f s).mode = s.mode
  exit : ∀ s, armExit (f s) = armExit s
  pending : ∀ s, (f s).pending = s.pending
  take : ∀ rest, Respects f fun s => { s with pending := rest }
  read : ∀ addr, Respects f fun s => { s with answers := s.answers ++ [memRead addr s] }
  reset : Respects f resetBlock
  error : ∀ cause info, Respects f (raiseError cause info)
  store : ∀ r w, Respects f (storeReg r w)
  tick : Respects f fun s => emitFrame (tickPulse s) (pidPhase s)
  armBegin : Respects f fun s => { s with ramp := rampStart s, mode := .arming }
  armExit : Respects f fun s => { s with throttle := 0, mode := .armed }
  armDrive : Respects f rampOutputStep
  stop : ∀ b, Respects f fun s => { s with stop := b }
  errClr : Respects f clearErrors

/-- Both outcomes are next states, and they agree but for what `f` forgets. -/
def Agree (f : State → State) (o o' : Host.Outcome State Fault Refusal) : Prop :=
  ∃ t t', o = .next t ∧ o' = .next t' ∧ f t = f t'

theorem agree_next {f : State → State} {t t' : State} (h : f t = f t') : Agree f (.next t) (.next t') :=
  ⟨t, t', rfl, rfl, h⟩

section Noninterference

variable {f : State → State} (hf : Forgets f) {s s' : State} (hs : f s = f s')
include hf hs

theorem Forgets.mode_eq : s.mode = s'.mode := by rw [← hf.mode s, hs, hf.mode s']

theorem Forgets.exit_eq : Machine.armExit s = Machine.armExit s' := by rw [← hf.exit s, hs, hf.exit s']

theorem Forgets.pending_eq : s.pending = s'.pending := by rw [← hf.pending s, hs, hf.pending s']

theorem Forgets.agree_error (cause : ErrorCause) (info : Word) :
    Agree f (.next (raiseError cause info s)) (.next (raiseError cause info s')) :=
  agree_next ((hf.error cause info).congr hs)

theorem Forgets.exec_agree (i : Instr) : Agree f (exec i s) (exec i s') := by
  have hmode := hf.mode_eq hs
  have hexit := hf.exit_eq hs
  cases i with
  | nop => exact agree_next hs
  | stopSet => exact agree_next ((hf.stop true).congr hs)
  | stopClr => exact agree_next ((hf.stop false).congr hs)
  | errClr => exact agree_next (hf.errClr.congr hs)
  | tick =>
    simp only [exec, execTick, hmode]
    cases s'.mode with
    | armed => exact agree_next (hf.tick.congr hs)
    | idle | arming => exact hf.agree_error hs _ _
  | armBegin =>
    simp only [exec, execArmBegin, hmode]
    cases s'.mode with
    | idle => exact agree_next (hf.armBegin.congr hs)
    | arming => exact agree_next hs
    | armed => exact hf.agree_error hs _ _
  | armStep =>
    simp only [exec, execArmStep, hmode, hexit]
    cases s'.mode with
    | arming =>
      cases Machine.armExit s' with
      | true => exact agree_next (hf.armExit.congr hs)
      | false => exact agree_next (hf.armDrive.congr hs)
    | idle | armed => exact hf.agree_error hs _ _

theorem Forgets.execute_agree (w : Word) : Agree f (execute w s) (execute w s') := by
  unfold execute
  cases decode w with
  | command i => exact hf.exec_agree hs i
  | illegal why => cases why <;> exact hf.agree_error hs _ _

theorem Forgets.writeReg_agree (addr : Addr) (r : Reg) (w : Word) :
    Agree f (writeReg addr r w s) (writeReg addr r w s') := by
  unfold writeReg
  rw [hf.mode_eq hs]
  cases accessOf r with
  | readOnly => exact hf.agree_error hs _ _
  | writeOnly => exact hf.execute_agree hs w
  | readWrite => exact agree_next ((hf.store r w).congr hs)
  | config =>
    by_cases hidle : s'.mode = .idle
    · simpa only [hidle, if_true] using agree_next ((hf.store r w).congr hs)
    · simpa only [hidle, if_false] using hf.agree_error hs _ _

theorem Forgets.memWrite_agree (addr : Addr) (w : Word) : Agree f (memWrite addr w s) (memWrite addr w s') := by
  unfold memWrite
  cases aligned addr with
  | false => exact hf.agree_error hs _ _
  | true =>
    cases slotAt addr with
    | none => exact hf.agree_error hs _ _
    | some r => exact hf.writeReg_agree hs addr r w

theorem Forgets.perform_agree (act : HostAction) : Agree f (perform act s) (perform act s') := by
  cases act with
  | reset _ | powerUp => exact agree_next (hf.reset.congr hs)
  | bus tr =>
    cases tr with
    | read addr => exact agree_next ((hf.read addr).congr hs)
    | write addr w => exact hf.memWrite_agree hs addr w

theorem Forgets.step_agree : Agree f (step s) (step s') := by
  unfold step
  rw [hf.pending_eq hs]
  cases s'.pending with
  | nil => exact agree_next hs
  | cons act rest => exact hf.perform_agree ((hf.take rest).congr hs) act

end Noninterference

/-- No operation on an axis or a motor reads the error record. -/
theorem forgets_forgetErrors : Forgets forgetErrors where
  mode _ := rfl
  exit _ := rfl
  pending _ := rfl
  take _ _ := rfl
  read _ _ := rfl
  reset _ := rfl
  error _ _ _ := rfl
  store r w s := by
    cases r with
    | sp a | meas a | kp a | ki a | kd a | maxi a => cases a <;> rfl
    | offset m => cases m <;> rfl
    | _ => rfl
  tick _ := rfl
  armBegin _ := rfl
  armExit _ := rfl
  armDrive _ := rfl
  stop _ _ := rfl
  errClr _ := rfl

/-- The mixer takes the exact outputs of the PID phase, not PIDOUT_a (R158). -/
theorem tickPulse_forgetReadBack (s : State) : tickPulse (forgetReadBack s) = tickPulse s := by
  funext m
  cases m <;> rfl

/-- PIDOUT_a apart, an axis is left the same whatever OUT_m and PIDOUT_a were. -/
theorem pidAxisRegs_forgetReadBack (s : State) (a : Axis) :
    { pidAxisRegs (forgetReadBack s) a with pidOut := 0 } = { pidAxisRegs s a with pidOut := 0 } := by
  cases a <;> rfl

theorem respects_pidPhase_forgetReadBack : Respects forgetReadBack pidPhase := by
  intro s
  simp only [forgetReadBack.eq_1 (pidPhase _), pidPhase_roll, pidPhase_pitch, pidPhase_yaw,
    pidAxisRegs_forgetReadBack]
  rfl

theorem respects_emitFrame_forgetReadBack (p : Motor → BitVec 16) : Respects forgetReadBack (emitFrame p) :=
  fun _ => rfl

theorem respects_tick_forgetReadBack :
    Respects forgetReadBack fun s => emitFrame (tickPulse s) (pidPhase s) := by
  intro s
  simp only [tickPulse_forgetReadBack]
  exact (respects_emitFrame_forgetReadBack _).congr (respects_pidPhase_forgetReadBack s)

/-- TICK and the arming pass write OUT_m and PIDOUT_a; nothing computes with them. -/
theorem forgets_forgetReadBack : Forgets forgetReadBack where
  mode _ := rfl
  exit _ := rfl
  pending _ := rfl
  take _ _ := rfl
  read _ _ := rfl
  reset _ := rfl
  error _ _ _ := rfl
  store r w s := by
    cases r with
    | sp a | meas a | kp a | ki a | kd a | maxi a => cases a <;> rfl
    | offset m => cases m <;> rfl
    | _ => rfl
  tick := respects_tick_forgetReadBack
  armBegin _ := rfl
  armExit _ := rfl
  armDrive _ := rfl
  stop _ _ := rfl
  errClr _ := rfl

/-- Settles O45: the events are among what is not forgotten, so the steps' agreement gives them too. -/
theorem readBackCopiesFeedNothing : Obligations.ReadBackCopiesFeedNothing := by
  intro s s' hs
  obtain ⟨t, t', ht, ht', hagree⟩ := forgets_forgetReadBack.step_agree hs
  have hevents : (forgetReadBack t).events = (forgetReadBack t').events := congrArg State.events hagree
  exact ⟨t, t', ht, ht', hevents, hagree⟩

/-! ### Reads -/

/-- The record is read at STATUS and ERR_INFO only. -/
theorem readReg_forgetErrors (s : State) {r : Reg} (h1 : r ≠ .status) (h2 : r ≠ .errInfo) :
    readReg r (forgetErrors s) = readReg r s :=
  (readReg_answers r (clearErrors s) []).trans (readReg_clearErrors h1 h2)

theorem memRead_forgetErrors (s : State) {addr : Addr} (h1 : addr ≠ 0x04) (h2 : addr ≠ 0x08) :
    memRead addr (forgetErrors s) = memRead addr s := by
  refine memRead_congr (rs := [.status, .errInfo]) (fun r hr => ?_) (fun r hr hslot => ?_)
  · simp only [List.mem_cons, List.not_mem_nil, or_false, not_or] at hr
    exact readReg_forgetErrors s hr.1 hr.2
  · have haddr := offsetOf_of_slotAt addr r hslot
    simp only [List.mem_cons, List.not_mem_nil, or_false] at hr
    rcases hr with rfl | rfl
    · exact h1 haddr.symm
    · exact h2 haddr.symm

/-- Settles O32: neither a read elsewhere nor a step reads the error record. -/
theorem errorBitsChangeNothingElse : Obligations.ErrorBitsChangeNothingElse := by
  intro s s' hs
  refine ⟨fun addr h1 h2 => ?_, forgets_forgetErrors.step_agree hs⟩
  rw [← memRead_forgetErrors s h1 h2, hs, memRead_forgetErrors s' h1 h2]

end Sys2Proof.Machine

/-! ## Memory: bus transactions (spec/20_memory.md R70 to R80)

A write goes by its checks in R75's order; each of them that fails has one lemma, and `memWrite_store` is the write that
passes them all. -/

namespace Sys2Proof.Machine

/-! ### What a refused access does -/

theorem memRead_misaligned {addr : Addr} (h : aligned addr = false) (s : State) : memRead addr s = 0 := by
  simp [memRead, h]

theorem memWrite_misaligned {addr : Addr} (h : aligned addr = false) (w : Word) (s : State) :
    memWrite addr w s = .next (raiseError .busMisaligned (BitVec.ofNat 32 addr.toNat) s) := by
  simp [memWrite, h, addrInfo_eq_ofNat]

theorem memWrite_readOnly {r : Reg} (hacc : accessOf r = .readOnly) (w : Word) (s : State) :
    memWrite (offsetOf r) w s = .next (raiseError .busReadonly (BitVec.ofNat 32 (offsetOf r).toNat) s) := by
  rw [memWrite_offsetOf, writeReg, hacc, addrInfo_eq_ofNat]

theorem memWrite_locked {r : Reg} {s : State} (hacc : accessOf r = .config) (hm : s.mode ≠ .idle) (w : Word) :
    memWrite (offsetOf r) w s = .next (raiseError .cfgLocked (BitVec.ofNat 32 (offsetOf r).toNat) s) := by
  simp only [memWrite_offsetOf, writeReg, hacc, if_neg hm, addrInfo_eq_ofNat]

/-! ### The configuration lock -/

/-- Settles O14: the lock refuses the write outside Idle; in Idle the register is writable, and a store reaches no other. -/
theorem configurationLock : Obligations.ConfigurationLock := by
  intro s r w hacc
  refine ⟨fun hm => memWrite_locked hacc hm w, fun hidle => ?_⟩
  exact ⟨storeReg r w s, memWrite_store (.inr ⟨hacc, hidle⟩) w, rfl, unchangedExcept_storeReg r w s,
    storeReg_events r w s⟩

/-! ### Storing twice -/

@[simp] theorem setAxis_setAxis (a : Axis) (x y : AxisRegs) (s : State) :
    setAxis a y (setAxis a x s) = setAxis a y s := by
  cases a <;> rfl

@[simp] theorem setMotor_setMotor (m : Motor) (x y : MotorRegs) (s : State) :
    setMotor m y (setMotor m x s) = setMotor m y s := by
  cases m <;> rfl

/-- What a store puts in a register depends on the word alone, so a second store of it finds it there. -/
theorem storeReg_storeReg (r : Reg) (w : Word) (s : State) : storeReg r w (storeReg r w s) = storeReg r w s := by
  cases r with
  | sp a | meas a | kp a | ki a | kd a | maxi a => simp [storeReg]
  | offset m => simp [storeReg]
  | _ => rfl

/-- Settles O21: a store keeps MODE, so the register takes the second write too, and storing is idempotent. -/
theorem storingTwiceIsStoringOnce : Obligations.StoringTwiceIsStoringOnce := by
  intro s r w (hr : Writable r s.mode)
  have hr' : Writable r (storeReg r w s).mode := by rwa [storeReg_mode]
  refine ⟨storeReg r w s, memWrite_store hr w, ?_⟩
  rw [memWrite_store hr', storeReg_storeReg]

/-! ### Steps -/

theorem step_of_pending {s : State} {act : HostAction} {rest : List HostAction} (hp : s.pending = act :: rest) :
    step s = perform act { s with pending := rest } := by
  rw [step, hp]

/-- Settles O24: the two forms of the host's list. -/
theorem stepTakesTheNextAction : Obligations.StepTakesTheNextAction :=
  fun _ => ⟨fun _ _ => step_of_pending, step_waiting⟩

/-! ### Misaligned, reserved and read-only addresses -/

/-- Settles O11: the alignment check comes first; a read as a step touches only the host's side of the bus. -/
theorem misalignedAccess : Obligations.MisalignedAccess := by
  intro s addr w haddr
  have h : aligned addr = false := by
    rw [← Bool.not_eq_true, aligned_iff]
    exact haddr
  exact ⟨memRead_misaligned h s, memWrite_misaligned h w s, fun _ hp => ⟨_, step_of_pending hp, rfl⟩⟩

/-- Settles O13: the registers R77 names are read-only, and the error procedure writes only STATUS and ERR_INFO. -/
theorem readOnlyAndReservedWrites : Obligations.ReadOnlyAndReservedWrites := by
  intro s addr w
  refine ⟨fun h => memWrite_reserved h w s, fun r hr => ?_, fun c i => ?_⟩
  · have hacc : accessOf r = .readOnly := by
      rcases hr with rfl | rfl | rfl | ⟨a, rfl | rfl | rfl⟩ | ⟨m, rfl⟩ <;> rfl
    exact memWrite_readOnly hacc w s
  · exact ⟨unchangedExcept_raiseError c i s, raiseError_events c i s, raiseError_mode c i s, raiseError_stop c i s⟩

end Sys2Proof.Machine

/-! ## Encoding: command words and assembler lines (spec/30_encoding.md R101 to R109)

The decoder's answer is fixed by the word's number alone: one lemma for each of R105's ranges, and together they cover
every word, so the three classes follow in both directions. -/

namespace Sys2Proof.Machine

/-! ### One class of words at a time -/

@[simp] theorem decode_encode (i : Instr) : decode (encode i) = .command i := by
  cases i <;> rfl

/-- Each command has exactly one word (R101: no operand, and RSV is zero). -/
theorem decode_eq_command_iff (w : Word) (i : Instr) : decode w = .command i ↔ w = encode i :=
  ⟨eq_encode_of_decode, fun h => h ▸ decode_encode i⟩

theorem decode_of_ge_256 {w : Word} (h : 256 ≤ w.toNat) : decode w = .illegal .reservedBits := by
  rw [decode, if_pos ((reservedField_ne_zero_iff w).mpr h)]

theorem reservedField_of_lt_256 {w : Word} (h : w.toNat < 256) : ¬ reservedField w ≠ 0 := by
  rw [reservedField_ne_zero_iff]
  omega

/-- Below 256 the opcode field is the whole word. -/
theorem commandOfOpcode_opcodeField_eq_none_iff {w : Word} (h : w.toNat < 256) :
    commandOfOpcode (opcodeField w) = none ↔ 7 ≤ w.toNat := by
  rw [commandOfOpcode_eq_none_iff, opcodeField_toNat, Nat.mod_eq_of_lt h]

theorem decode_of_ge_7 {w : Word} (h7 : 7 ≤ w.toNat) (h : w.toNat < 256) : decode w = .illegal .unknownOpcode := by
  rw [decode, if_neg (reservedField_of_lt_256 h), (commandOfOpcode_opcodeField_eq_none_iff h).mpr h7]

theorem exists_decode_of_lt_7 {w : Word} (h : w.toNat < 7) : ∃ i, decode w = .command i := by
  have h256 : w.toNat < 256 := by omega
  have hsome : commandOfOpcode (opcodeField w) ≠ none := by
    rw [Ne, commandOfOpcode_opcodeField_eq_none_iff h256]
    omega
  obtain ⟨i, hi⟩ := Option.ne_none_iff_exists'.mp hsome
  exact ⟨i, by rw [decode, if_neg (reservedField_of_lt_256 h256), hi]⟩

/-! ### Every word -/

/-- R105: the three ranges of the word, each with what the decoder answers in it. -/
theorem decode_cases (w : Word) :
    (256 ≤ w.toNat ∧ decode w = .illegal .reservedBits) ∨
    ((7 ≤ w.toNat ∧ w.toNat < 256) ∧ decode w = .illegal .unknownOpcode) ∨
    (w.toNat < 7 ∧ ∃ i, decode w = .command i) := by
  rcases Nat.lt_or_ge w.toNat 256 with h256 | h256
  · rcases Nat.lt_or_ge w.toNat 7 with h7 | h7
    · exact .inr (.inr ⟨h7, exists_decode_of_lt_7 h7⟩)
    · exact .inr (.inl ⟨⟨h7, h256⟩, decode_of_ge_7 h7 h256⟩)
  · exact .inl ⟨h256, decode_of_ge_256 h256⟩

theorem decode_eq_reservedBits_iff (w : Word) : decode w = .illegal .reservedBits ↔ 256 ≤ w.toNat := by
  rcases decode_cases w with ⟨hw, h⟩ | ⟨hw, h⟩ | ⟨hw, i, h⟩ <;> simp [h] <;> omega

theorem decode_eq_unknownOpcode_iff (w : Word) :
    decode w = .illegal .unknownOpcode ↔ 7 ≤ w.toNat ∧ w.toNat < 256 := by
  rcases decode_cases w with ⟨hw, h⟩ | ⟨hw, h⟩ | ⟨hw, i, h⟩ <;> simp [h] <;> omega

theorem exists_decode_eq_command_iff (w : Word) : (∃ i, decode w = .command i) ↔ w.toNat < 7 := by
  rcases decode_cases w with ⟨hw, h⟩ | ⟨hw, h⟩ | ⟨hw, i, h⟩ <;> simp [h] <;> omega

/-- Settles O3: the classes by `decode_cases`; a write to CMD runs the word, and an illegal one is its class's error. -/
theorem everyWordFallsInItsClass : Obligations.EveryWordFallsInItsClass := by
  intro w s
  refine ⟨decode_eq_reservedBits_iff w, decode_eq_unknownOpcode_iff w, decode_eq_command_iff w,
    exists_decode_eq_command_iff w, fun h => ?reserved, fun h7 h => ?unknown⟩
  case reserved => rw [memWrite_cmd, execute, decode_of_ge_256 h]
  case unknown => rw [memWrite_cmd, execute, decode_of_ge_7 h7 h]

/-- Settles O1: the seven literals are the commands' words, and the other four lie in the ranges of R105. -/
theorem writtenOutWordsDecode : Obligations.WrittenOutWordsDecode :=
  ⟨decode_encode .nop, decode_encode .tick, decode_encode .armBegin, decode_encode .armStep, decode_encode .stopSet,
    decode_encode .stopClr, decode_encode .errClr, decode_of_ge_7 (by decide) (by decide),
    decode_of_ge_7 (by decide) (by decide), decode_of_ge_256 (by decide), decode_of_ge_256 (by decide)⟩

theorem wellFormed_eq_true (i : Instr) : i.wellFormed = true := by
  cases i <;> rfl

/-- Settles O2: the round trip, and a command has no field that could be ill formed. -/
theorem decodeOfEncode : Obligations.DecodeOfEncode :=
  fun i => ⟨wellFormed_eq_true i, decode_encode i⟩

/-! ### The assembler -/

/-- R108: the value a pseudo-instruction writes to CMD, its opcode, is the command's word. -/
theorem word32_opcode (i : Instr) : word32 (opcode i).toNat = encode i := by
  cases i <;> rfl

theorem lineAction_pseudo (i : Instr) : lineAction (.pseudo i) = issue i := by
  change HostAction.bus (.write 0x00 (word32 (opcode i).toNat)) = issue i
  rw [word32_opcode, issue]

/-- Settles O4: a pseudo-instruction writes its command's word; the worked lines and texts are closed and evaluate. -/
theorem assemblerLinesEncode : Obligations.AssemblerLinesEncode :=
  ⟨by decide, lineAction_pseudo, by decide, by decide, by decide⟩

end Sys2Proof.Machine

/-! ## PID: bounds, independent axes and anti-windup (spec/40_pid.md R120 to R132)

The magnitudes of the weighted terms and of the mixer's partial sums complete those of the section on the 50-bit
datapath. What the PID phase leaves on an axis is a function of that axis and of the two divisors; so the axes commute.
Under a constant error a run of TICKs is one clamped addition of all its increments; so the bound is reached exactly. -/

namespace Sys2Proof.Machine

/-! ### Magnitudes of the weighted terms (R131) -/

section Terms

variable (s : State) (a : Axis)

theorem abs_proportionalTerm_lt : |(axisOf s a).kp.toInt * pidError s a| < 2 ^ 39 :=
  (abs_gain_mul_le _ (abs_pidError_le s a)).trans_lt (by norm_num)

theorem abs_integralTerm_lt : |(axisOf s a).ki.toInt * pidIntegral s a| < 2 ^ 46 :=
  (abs_gain_mul_le _ (abs_pidIntegral_le s a)).trans_lt (by norm_num)

theorem abs_proportional_add_integral_lt :
    |(axisOf s a).kp.toInt * pidError s a + (axisOf s a).ki.toInt * pidIntegral s a| < 2 ^ 39 + 2 ^ 46 :=
  (abs_add_le _ _).trans_lt (add_lt_add (abs_proportionalTerm_lt s a) (abs_integralTerm_lt s a))

end Terms

theorem abs_derivativeTerm_lt {s : State} (inv : Inv s) (a : Axis) :
    |(axisOf s a).kd.toInt * pidDerivative s a| < 2 ^ 40 :=
  (abs_gain_mul_le _ (abs_pidDerivative_le inv a)).trans_lt (by norm_num)

/-! ### Magnitudes of the mixer's partial sums (R157) -/

/-- R157: the range of base_m. -/
theorem motorBase_range (s : State) (m : Motor) :
    -32768 ≤ baseThrottle s + (motorOf s m).offset.toInt ∧
      baseThrottle s + (motorOf s m).offset.toInt ≤ 65567767 := by
  have hlower := baseThrottle_nonneg s
  have hupper := baseThrottle_le s
  have hoffset := toInt_bounds (motorOf s m).offset
  omega

theorem abs_motorBase_lt (s : State) (m : Motor) : |baseThrottle s + (motorOf s m).offset.toInt| < 2 ^ 26 := by
  have hrange := motorBase_range s m
  rw [abs_lt]
  omega

section PartialSums

variable {s : State} (inv : Inv s) (m : Motor)
include inv

theorem abs_signedOutput_lt (a : Axis) : |mixSgn s m a * pidOutput s a| < 2 ^ 47 :=
  (abs_mixSgn_mul s m a _).trans_lt (abs_pidOutput_lt inv a)

theorem abs_base_add_roll_lt :
    |baseThrottle s + (motorOf s m).offset.toInt + mixSgn s m .roll * pidOutput s .roll| < 2 ^ 26 + 2 ^ 47 :=
  (abs_add_le _ _).trans_lt (add_lt_add (abs_motorBase_lt s m) (abs_signedOutput_lt inv m .roll))

theorem abs_base_add_roll_add_pitch_lt :
    |baseThrottle s + (motorOf s m).offset.toInt + mixSgn s m .roll * pidOutput s .roll
      + mixSgn s m .pitch * pidOutput s .pitch| < 2 ^ 26 + 2 * 2 ^ 47 :=
  calc _ ≤ _ := abs_add_le _ _
    _ < 2 ^ 26 + 2 ^ 47 + 2 ^ 47 := add_lt_add (abs_base_add_roll_lt inv m) (abs_signedOutput_lt inv m .pitch)
    _ = 2 ^ 26 + 2 * 2 ^ 47 := by norm_num

end PartialSums

/-- Settles O7: each row of R131's and R157's tables is a lemma of its own. -/
theorem everyIntermediateFitsFiftyBits : Obligations.EveryIntermediateFitsFiftyBits := by
  intro s inv
  refine ⟨fun a => ?_, throttle_product_le s, baseThrottle_nonneg s, baseThrottle_le s, fun m => ?_⟩
  · exact ⟨abs_pidError_le s a, (abs_tdiv_le _ _).trans (abs_pidError_le s a), abs_pidAccumulated_le inv a,
      abs_pidIntegral_le s a, abs_pidDerivative_le inv a, abs_proportionalTerm_lt s a, abs_integralTerm_lt s a,
      abs_derivativeTerm_lt inv a, abs_proportional_add_integral_lt s a, abs_pidSum_lt inv a, abs_pidOutput_le s a,
      abs_pidOutput_lt inv a⟩
  · obtain ⟨hlower, hupper⟩ := motorBase_range s m
    obtain ⟨hpulse, hpulse'⟩ := clamp_pulse_range (mix s m) s.minPulse s.maxPulse
    exact ⟨hlower, hupper, abs_base_add_roll_lt inv m, abs_base_add_roll_add_pitch_lt inv m, abs_mix_lt inv m,
      mix_fits inv m, hpulse, hpulse'⟩

/-! ### What an axis's results depend on (R121, R128) -/

section Dependence

variable {s s' : State} {a : Axis} (hx : axisOf s a = axisOf s' a)
include hx

theorem pidError_congr : pidError s a = pidError s' a := by rw [pidError, pidError, hx]

theorem pidIntegral_congr (hi : s.iscale = s'.iscale) : pidIntegral s a = pidIntegral s' a := by
  simp only [pidIntegral, pidAccumulated, pidError_congr hx, hx, hi]

theorem pidOutput_congr (hi : s.iscale = s'.iscale) (hp : s.pscale = s'.pscale) :
    pidOutput s a = pidOutput s' a := by
  simp only [pidOutput, pidSum, pidDerivative, pidError_congr hx, pidIntegral_congr hx hi, hx, hp]

theorem pidAxisRegs_congr (hi : s.iscale = s'.iscale) (hp : s.pscale = s'.pscale) :
    pidAxisRegs s a = pidAxisRegs s' a := by
  simp only [pidAxisRegs, pidError_congr hx, pidIntegral_congr hx hi, pidOutput_congr hx hi hp, hx]

end Dependence

/-- R128: writing another axis leaves this axis's results as they are. -/
theorem pidAxisRegs_setAxis_ne {a b : Axis} (h : a ≠ b) (x : AxisRegs) (s : State) :
    pidAxisRegs (setAxis a x s) b = pidAxisRegs s b :=
  pidAxisRegs_congr (axisOf_setAxis_ne a b x s h) (setAxis_iscale a x s) (setAxis_pscale a x s)

theorem setAxis_comm {a b : Axis} (h : a ≠ b) (x y : AxisRegs) (s : State) :
    setAxis a x (setAxis b y s) = setAxis b y (setAxis a x s) := by
  cases a <;> cases b <;> first | rfl | exact absurd rfl h

theorem pidAxis_comm (s : State) (a b : Axis) : pidAxis a (pidAxis b s) = pidAxis b (pidAxis a s) := by
  rcases eq_or_ne a b with rfl | h
  · rfl
  · simp only [pidAxis, pidAxisRegs_setAxis_ne h, pidAxisRegs_setAxis_ne h.symm]
    exact setAxis_comm h _ _ s

theorem pidAxis_sequence (s : State) : pidAxis .yaw (pidAxis .pitch (pidAxis .roll s)) = pidPhase s := by
  have hpitch : pidAxisRegs (setAxis .roll (pidAxisRegs s .roll) s) .pitch = pidAxisRegs s .pitch :=
    pidAxisRegs_setAxis_ne (by decide) _ _
  simp only [pidAxis, hpitch, pidAxisRegs_setAxis_ne (show Axis.roll ≠ .yaw by decide),
    pidAxisRegs_setAxis_ne (show Axis.pitch ≠ .yaw by decide)]
  rfl

/-- Settles O40: an axis's results are a function of its own registers and the divisors, which no axis writes. -/
theorem axesAreIndependent : Obligations.AxesAreIndependent := by
  refine ⟨pidAxis_comm, pidAxis_sequence, fun s s' a hx hi hp => ⟨?_, pidOutput_congr hx hi hp⟩⟩
  rw [axisOf_pidPhase, axisOf_pidPhase]
  exact pidAxisRegs_congr hx hi hp

/-! ### A constant error (R124, R132) -/

/-- The clamp after each of two additions of one sign is the clamp after both: what the first clamp cuts off lies
beyond the bound that the second one meets. -/
theorem clamp_clamp_add {v c lo hi d : Int} (hlo : lo ≤ v) (hhi : v ≤ hi) (hsign : 0 ≤ d ∧ 0 ≤ c ∨ d ≤ 0 ∧ c ≤ 0) :
    clamp (clamp (v + d) lo hi + c) lo hi = clamp (v + (d + c)) lo hi := by
  unfold clamp
  omega

theorem eq_upper_of_clamp_add {v d lo hi : Int} (hv : lo ≤ v) (hd : hi - lo ≤ d) : clamp (v + d) lo hi = hi := by
  unfold clamp
  omega

theorem eq_lower_of_clamp_add {v d lo hi : Int} (hv : v ≤ hi) (hd : hi - lo ≤ -d) (h : lo ≤ hi) :
    clamp (v + d) lo hi = lo := by
  unfold clamp
  omega

theorem run_succ_of_step (M : Host.Core) {s t : M.State} (h : M.step s = .next t) (k : Nat) :
    M.run (k + 1) s = M.run k t := by
  rw [Host.Core.run, h]

/-- R123: what one TICK adds to an axis's integral before the clamp. -/
def integralIncrement (s : State) (a : Axis) : Int := tdiv (pidError s a) s.iscale.toNat

/-- The state an armed block is in after a TICK, with `rest` still waiting (R161). -/
def afterTick (s : State) (rest : List HostAction) : State :=
  emitFrame (tickPulse s) (pidPhase { s with pending := rest })

theorem step_tick_armed {s : State} {rest : List HostAction} (hm : s.mode = .armed)
    (hp : s.pending = issue .tick :: rest) : step s = .next (afterTick s rest) :=
  (stepRunsTheDecodedCommand s _ .tick rest hp (decode_encode .tick) rfl).trans (exec_tick_armed hm)

section AfterTick

variable (s : State) (rest : List HostAction) (a : Axis)

@[simp] theorem afterTick_mode : (afterTick s rest).mode = s.mode := rfl

@[simp] theorem afterTick_pending : (afterTick s rest).pending = rest := rfl

@[simp] theorem axisOf_afterTick : axisOf (afterTick s rest) a = pidAxisRegs s a := by cases a <;> rfl

@[simp] theorem pidAxisRegs_maxi : (pidAxisRegs s a).maxi = (axisOf s a).maxi := rfl

/-- A TICK writes no operand of the increment. -/
@[simp] theorem integralIncrement_afterTick :
    integralIncrement (afterTick s rest) a = integralIncrement s a := by cases a <;> rfl

end AfterTick

/-- R124: k waiting TICKs move the integral by k equal increments, clamped once. -/
theorem run_ticks_armed (a : Axis) (rest : List HostAction) (k : Nat) {s : State} (hm : s.mode = .armed)
    (hinteg : integralBounded (axisOf s a)) (hp : s.pending = List.replicate k (issue .tick) ++ rest) :
    ∃ t, Sys2Proof.core.run k s = .next t ∧ t.pending = rest ∧
      (axisOf t a).integ.toInt = clamp ((axisOf s a).integ.toInt + k * integralIncrement s a)
        (-(axisOf s a).maxi.toNat) (axisOf s a).maxi.toNat := by
  induction k generalizing s with
  | zero => exact ⟨s, rfl, hp, by simpa using (clamp_of_within hinteg.1 hinteg.2).symm⟩
  | succ k ih =>
    have hp' : s.pending = issue .tick :: (List.replicate k (issue .tick) ++ rest) := hp
    have hstep : Sys2Proof.core.step s = .next (afterTick s _) := step_tick_armed hm hp'
    have hbounded : integralBounded (axisOf (afterTick s (List.replicate k (issue .tick) ++ rest)) a) := by
      rw [axisOf_afterTick]
      exact integralBounded_pidAxisRegs s a
    obtain ⟨t, hrun, hrest, ht⟩ := ih ((afterTick_mode s _).trans hm) hbounded (afterTick_pending s _)
    refine ⟨t, ?run, hrest, ?integral⟩
    case run => exact (run_succ_of_step _ hstep k).trans hrun
    case integral =>
      have hsign : 0 ≤ integralIncrement s a ∧ 0 ≤ k * integralIncrement s a ∨
          integralIncrement s a ≤ 0 ∧ k * integralIncrement s a ≤ 0 :=
        (le_total 0 (integralIncrement s a)).imp (fun h => ⟨h, by positivity⟩)
          (fun h => ⟨h, mul_nonpos_of_nonneg_of_nonpos (by positivity) h⟩)
      rw [ht, axisOf_afterTick, integralIncrement_afterTick, pidAxisRegs_maxi, pidAxisRegs_integ_toInt]
      calc clamp (pidIntegral s a + k * integralIncrement s a) _ _
          = clamp ((axisOf s a).integ.toInt + (integralIncrement s a + k * integralIncrement s a)) _ _ :=
            clamp_clamp_add hinteg.1 hinteg.2 hsign
        _ = _ := by rw [Nat.cast_succ, add_one_mul, add_comm (integralIncrement s a)]

/-- Settles O41: the k increments together are at least the distance between the two bounds. -/
theorem constantErrorDrivesTheIntegralToItsBound : Obligations.ConstantErrorDrivesTheIntegralToItsBound := by
  intro s a k rest hm _ hinteg hp hk
  obtain ⟨t, hrun, hrest, ht⟩ := run_ticks_armed a rest k hm hinteg hp
  change _ ≤ k * |integralIncrement s a| at hk
  refine ⟨t, hrun, hrest, fun (hpos : 0 < integralIncrement s a) => ?_,
    fun (hneg : integralIncrement s a < 0) => ?_⟩
  · rw [abs_of_pos hpos] at hk
    rw [ht]
    exact eq_upper_of_clamp_add hinteg.1 (by omega)
  · rw [abs_of_neg hneg, mul_neg] at hk
    rw [ht]
    exact eq_lower_of_clamp_add hinteg.2 (by omega) (by omega)

end Sys2Proof.Machine

/-! ## Mixer: TICK, the stop override and the safety clamp (spec/41_mixer.md R150 to R162)

The frame is emitted last, so OUT_m after a TICK is the pulse width of R160 and each axis is as the PID phase leaves it.
What is left to say is which of R160's two values the pulse width is, and what bounds it. -/

namespace Sys2Proof.Machine

/-! ### The mix under the reset value of MIXSIGN (R155) -/

/-- R39: the signs that the reset value of MIXSIGN gives the X-configuration. -/
def defaultSign : Motor → Axis → Int
  | .a, _     => 1
  | .b, .roll => -1 | .b, .pitch => 1  | .b, .yaw => -1
  | .c, .roll => 1  | .c, .pitch => -1 | .c, .yaw => -1
  | .d, .roll => -1 | .d, .pitch => -1 | .d, .yaw => 1

theorem mixSgn_of_reset {s : State} (h : s.mixSign = 0x7A8) (m : Motor) (a : Axis) :
    mixSgn s m a = defaultSign m a := by
  rw [mixSgn, h]
  cases m <;> cases a <;> rfl

/-- Settles O44: the signs are the table's, and a sign of -1 subtracts. -/
theorem defaultLayoutMixes : Obligations.DefaultLayoutMixes := by
  intro s h
  simp only [mix, mixSgn_of_reset h, defaultSign, motorOf, one_mul, neg_one_mul, ← sub_eq_add_neg, and_self]

/-! ### What a TICK leaves (R127, R161) -/

theorem exec_tick_refused {s : State} (h : s.mode ≠ .armed) :
    exec .tick s = .next (raiseError .cmdMode (encode .tick) s) := by
  cases hm : s.mode with
  | armed => exact absurd hm h
  | idle | arming => simp [exec, execTick, hm]

/-- R127: PIDOUT_a holds the saturated output. -/
theorem pidAxisRegs_pidOut_toInt (s : State) (a : Axis) : (pidAxisRegs s a).pidOut.toInt = sat32 (pidOutput s a) := by
  have hlower : -2 ^ 31 ≤ sat32 (pidOutput s a) := lower_le_clamp (by norm_num)
  have hupper : sat32 (pidOutput s a) ≤ 2 ^ 31 - 1 := clamp_le_upper _ _ _
  exact toInt_word32 hlower (by omega)

theorem unchangedExcept_tick (p : Motor → BitVec 16) (s : State) :
    unchangedExcept tickWrites s (emitFrame p (pidPhase s)) :=
  unchangedExcept_of_readReg (fun _ => readReg_tick) rfl rfl

/-- Settles O39: the claimed formulas are the meanings of the PID phase and of the pulse width, which the frame carries.
They divide as the meanings do, so the proof has no use for R44. -/
theorem tickCommand : Obligations.TickCommand := by
  refine ⟨fun s => exec_tick_refused, fun s hm _ _ => ⟨_, exec_tick_armed hm, fun a => ?axis, fun m => ?motor, rfl,
    unchangedExcept_tick _ s⟩⟩
  case axis =>
    rw [axisOf_emitFrame, axisOf_pidPhase]
    exact ⟨pidAxisRegs_integ_toInt s a, pidAxisRegs_lastErr_toInt s a, pidAxisRegs_pidOut_toInt s a⟩
  case motor =>
    rw [motorOf_emitFrame]
    exact (claimedPulse_eq s m).symm

/-! ### The safety clamp (R156) -/

theorem tickPulse_eq_clamp_claimedMix {s : State} (h : s.stop = false) (m : Motor) :
    ((tickPulse s m).toNat : Int) = clamp (claimedMix s m) s.minPulse.toNat s.maxPulse.toNat := by
  rw [tickPulse_of_running h, claimedMix_eq, clampedMix]

theorem tickPulse_le_maxPulse {s : State} (h : s.stop = false) (m : Motor) :
    (tickPulse s m).toNat ≤ s.maxPulse.toNat := by
  have hupper := clamp_le_upper (mix s m) s.minPulse.toNat s.maxPulse.toNat
  rw [← clampedMix, ← tickPulse_of_running h] at hupper
  exact_mod_cast hupper

theorem minPulse_le_tickPulse {s : State} (h : s.stop = false) (hbounds : s.minPulse.toNat ≤ s.maxPulse.toNat)
    (m : Motor) : s.minPulse.toNat ≤ (tickPulse s m).toNat := by
  have hlower : (s.minPulse.toNat : Int) ≤ clampedMix s m := lower_le_clamp (by exact_mod_cast hbounds)
  rw [← tickPulse_of_running h] at hlower
  exact_mod_cast hlower

theorem tickPulse_of_crossed {s : State} (h : s.stop = false) (hbounds : s.maxPulse.toNat < s.minPulse.toNat)
    (m : Motor) : tickPulse s m = s.maxPulse := by
  have hcrossed : clampedMix s m = s.maxPulse.toNat := clamp_of_crossed (by exact_mod_cast hbounds.le)
  rw [← tickPulse_of_running h] at hcrossed
  exact BitVec.eq_of_toNat_eq (by exact_mod_cast hcrossed)

/-- Settles O43: OUT_m after the TICK is the pulse width, with the latch clear the clamped mix. -/
theorem safetyClampBoundsEachMotor : Obligations.SafetyClampBoundsEachMotor := by
  intro s hm hstop
  refine ⟨_, exec_tick_armed hm, fun m => ?_⟩
  rw [motorOf_emitFrame]
  exact ⟨tickPulse_eq_clamp_claimedMix hstop m,
    fun hbounds => ⟨minPulse_le_tickPulse hstop hbounds m, tickPulse_le_maxPulse hstop m⟩,
    fun hbounds => tickPulse_of_crossed hstop hbounds m⟩

/-! ### The stop override (R133, R160) -/

section StopLatch

variable (s : State) (b : Bool)

/-- No operand of a mix is the latch. -/
theorem claimedMix_stop (m : Motor) : claimedMix { s with stop := b } m = claimedMix s m := by cases m <;> rfl

/-- R133: the PID phase does not read the latch. -/
theorem pidAxisRegs_stop (a : Axis) : pidAxisRegs { s with stop := b } a = pidAxisRegs s a := by cases a <;> rfl

end StopLatch

/-- Settles O42: the latch picks the pulse width and is read nowhere else. -/
theorem stopOverridesOutputsOnly : Obligations.StopOverridesOutputsOnly := by
  intro s hm
  have hstopped : tickPulse { s with stop := true } = fun _ => s.minPulse := funext (tickPulse_of_stopped rfl)
  refine ⟨_, _, exec_tick_armed hm, exec_tick_armed hm, fun m => ?stopped, fun m => ?running, ?events,
    fun a => ?axis⟩
  case stopped => rw [motorOf_emitFrame, hstopped]
  case running =>
    rw [motorOf_emitFrame, tickPulse_eq_clamp_claimedMix rfl, claimedMix_stop]
    rfl
  case events =>
    rw [hstopped]
    rfl
  case axis => simp only [axisOf_emitFrame, axisOf_pidPhase, pidAxisRegs_stop]

/-! ### The ceiling of every emitted value (R156, R160, R185) -/

theorem forall_mem_frame {P : BitVec 16 → Prop} {p : Motor → BitVec 16} (h : ∀ m, P (p m)) :
    ∀ e ∈ frame p, P e.v := by
  simp [frame, h]

/-- What the ceiling says of one emitted value. -/
def UnderCeiling (s : State) (v : BitVec 16) : Prop :=
  v.toNat ≤ s.maxPulse.toNat ∨ (s.stop = true ∧ v = s.minPulse)

theorem underCeiling_tickPulse (s : State) (m : Motor) : UnderCeiling s (tickPulse s m) := by
  cases hstop : s.stop with
  | false => exact .inl (tickPulse_le_maxPulse hstop m)
  | true => exact .inr ⟨hstop, tickPulse_of_stopped hstop m⟩

theorem underCeiling_rampPulse (s : State) : UnderCeiling s (rampPulse s) :=
  .inl ((rampPulse_toNat s).trans_le (min_le_right _ _))

/-- The events an action appends, none or one frame, are under the ceiling. -/
theorem events_underCeiling_of_effect {s t : State} {act : HostAction} (h : Effect s act t) :
    ∃ evs, t.events = s.events ++ evs ∧ ∀ e ∈ evs, UnderCeiling s e.v := by
  cases h with
  | tick hm => exact ⟨_, rfl, forall_mem_frame (underCeiling_tickPulse s)⟩
  | armDrive hm hx => exact ⟨_, rfl, forall_mem_frame fun _ => underCeiling_rampPulse s⟩
  | store r w hr => exact ⟨[], by simp [storeReg_events], nofun⟩
  | _ => exact ⟨[], (List.append_nil _).symm, nofun⟩

/-- Settles O56: a step appends what the host's next action does. -/
theorem maxPulseIsAHardCeiling : Obligations.MaxPulseIsAHardCeiling := by
  intro s t act rest hp h
  have hevents := events_underCeiling_of_effect (effect_of_step hp h)
  exact hevents

end Sys2Proof.Machine

/-! ## Arming: ARM_BEGIN, ARM_STEP and the table of modes (spec/42_arming.md R180 to R190)

One equation for each cell of R180's table. While ARM_STEP's exit condition is false the block is held in Arming: what a
held block keeps is said once for an action's effect, and then carried along a run. -/

namespace Sys2Proof.Machine

/-! ### The cells of the table (R180 to R185) -/

theorem exec_armBegin_idle {s : State} (hm : s.mode = .idle) :
    exec .armBegin s = .next { s with ramp := rampStart s, mode := .arming } := by simp [exec, execArmBegin, hm]

theorem exec_armBegin_arming {s : State} (hm : s.mode = .arming) : exec .armBegin s = .next s := by
  simp [exec, execArmBegin, hm]

theorem exec_armBegin_refused {s : State} (hm : s.mode = .armed) :
    exec .armBegin s = .next (raiseError .cmdMode (encode .armBegin) s) := by simp [exec, execArmBegin, hm]

theorem exec_armStep_refused {s : State} (hm : s.mode ≠ .arming) :
    exec .armStep s = .next (raiseError .cmdMode (encode .armStep) s) := by
  cases h : s.mode with
  | arming => exact absurd h hm
  | idle | armed => simp [exec, execArmStep, h]

theorem armExit_eq_false_iff (s : State) : armExit s = false ↔ |s.roll.sp.toInt| ≤ s.armThresh.toNat := by
  rw [← Bool.not_eq_true, armExit_iff, not_lt]

/-- The cells that say `err`. -/
theorem refusedInMode_cases {i : Instr} {mode : Mode} (h : refusedInMode i mode = true) :
    (i = .tick ∧ mode ≠ .armed) ∨ (i = .armBegin ∧ mode = .armed) ∨ (i = .armStep ∧ mode ≠ .arming) := by
  revert h
  cases i <;> cases mode <;> decide

theorem exec_refused {i : Instr} {s : State} (h : refusedInMode i s.mode = true) :
    exec i s = .next (raiseError .cmdMode (encode i) s) := by
  obtain ⟨rfl, hm⟩ | ⟨rfl, hm⟩ | ⟨rfl, hm⟩ := refusedInMode_cases h
  · exact exec_tick_refused hm
  · exact exec_armBegin_refused hm
  · exact exec_armStep_refused hm

theorem modeAfter_of_refused {i : Instr} {s : State} (h : refusedInMode i s.mode = true) : modeAfter i s = s.mode := by
  obtain ⟨rfl, -⟩ | ⟨rfl, hm⟩ | ⟨rfl, hm⟩ := refusedInMode_cases h
  · rfl
  · simp [modeAfter, hm]
  · cases h : s.mode with
    | arming => exact absurd h hm
    | idle | armed => simp [modeAfter, h]

theorem modeAfter_armStep {s : State} (hm : s.mode = .arming) :
    modeAfter .armStep s = if armExit s then .armed else .arming := by
  simp [modeAfter, hm, armExit_iff]

/-- The five fields of the error record, as the table's statement takes them. -/
abbrev errorRecord (s : State) : Bool × Bool × Bool × ErrorCause × Word :=
  (s.errCmd, s.errCfg, s.errBus, s.errCause, s.errInfo)

/-- The cells that do not say `err`. -/
theorem exec_accepted {i : Instr} {s : State} (h : refusedInMode i s.mode = false) :
    ∃ t, exec i s = .next t ∧ t.mode = modeAfter i s ∧ (i = .nop ∨ (i = .armBegin ∧ s.mode = .arming) → t = s) ∧
      (i ≠ .errClr → errorRecord t = errorRecord s) := by
  cases i with
  | nop => exact ⟨s, rfl, rfl, fun _ => rfl, fun _ => rfl⟩
  | stopSet | stopClr => exact ⟨_, rfl, rfl, by simp, fun _ => rfl⟩
  | errClr => exact ⟨_, rfl, rfl, by simp, fun h => absurd rfl h⟩
  | tick =>
    cases hm : s.mode with
    | armed => exact ⟨_, exec_tick_armed hm, rfl, by simp, fun _ => rfl⟩
    | idle | arming => simp [hm, refusedInMode] at h
  | armBegin =>
    cases hm : s.mode with
    | idle => exact ⟨_, exec_armBegin_idle hm, by simp [modeAfter, hm], by simp, fun _ => rfl⟩
    | arming => exact ⟨s, exec_armBegin_arming hm, by simp [modeAfter, hm], fun _ => rfl, fun _ => rfl⟩
    | armed => simp [hm, refusedInMode] at h
  | armStep =>
    cases hm : s.mode with
    | arming =>
      rw [modeAfter_armStep hm]
      cases hx : armExit s with
      | true => exact ⟨_, exec_armStep_exit hm hx, rfl, by simp, fun _ => rfl⟩
      | false => exact ⟨_, exec_armStep_drive hm hx, hm, by simp, fun _ => rfl⟩
    | idle | armed => simp [hm, refusedInMode] at h

/-- Settles O52: a cell says `err`, or it does not. -/
theorem modeTransitionTable : Obligations.ModeTransitionTable := by
  refine ⟨fun s => ⟨_, rfl, resetBlock_mode s⟩, fun s i => ?_⟩
  cases h : refusedInMode i s.mode with
  | true =>
    refine ⟨_, exec_refused h, (modeAfter_of_refused h).symm, ?_, fun _ => rfl, nofun⟩
    rintro (rfl | ⟨rfl, hm⟩)
    · simp [refusedInMode] at h
    · simp [hm, refusedInMode] at h
  | false =>
    obtain ⟨t, hexec, hmode, hsame, hrecord⟩ := exec_accepted h
    exact ⟨t, hexec, hmode, hsame, nofun, fun _ => hrecord⟩

/-! ### ARM_BEGIN (R181 to R183) -/

/-- Settles O46: the three cells of ARM_BEGIN. T divides as `tdiv` does, so the proof has no use for R44. -/
theorem armBeginCommand : Obligations.ArmBeginCommand := by
  refine ⟨fun s hm _ => ?_, fun _ => exec_armBegin_arming, fun _ => exec_armBegin_refused⟩
  exact ⟨_, exec_armBegin_idle hm, rfl, rampStart_toNat s, rfl, rfl,
    unchangedExcept_of_readReg (fun _ => readReg_armBegin) rfl rfl, fun _ w hacc => memWrite_locked hacc (by simp) w⟩

/-! ### ARM_STEP (R184 to R186, R190) -/

/-- Settles O47: the refused cell, the exit step and the driving step. -/
theorem armStepCommand : Obligations.ArmStepCommand := by
  refine ⟨fun _ => exec_armStep_refused, fun s hm hover => ?exit, fun s hm hwithin => ?drive⟩
  case exit =>
    exact ⟨_, exec_armStep_exit hm ((armExit_iff s).mpr hover), rfl, rfl,
      unchangedExcept_of_readReg (fun _ => readReg_armExit) rfl rfl⟩
  case drive =>
    refine ⟨rampOutputStep s, rampPulse s, exec_armStep_drive hm ((armExit_eq_false_iff s).mpr hwithin),
      rampPulse_toNat s, rfl, fun m => ?_, rampNext_toNat s, hm,
      unchangedExcept_of_readReg (fun _ => readReg_rampOutputStep) rfl rfl⟩
    exact congrArg MotorRegs.out (motorOf_emitFrame (fun _ => rampPulse s) s m)

/-- Settles O48: neither the exit test nor the emitted value reads STOP, and the value is a minimum with MAX_PULSE of a
ramp within ARM_PULSE. -/
theorem armingStaysUnderItsBound : Obligations.ArmingStaysUnderItsBound := by
  intro s b hm hramp
  cases hx : armExit s with
  | true =>
    exact ⟨_, _, [], exec_armStep_exit hm hx, exec_armStep_exit hm hx, (List.append_nil _).symm,
      (List.append_nil _).symm, nofun, hramp, rfl⟩
  | false =>
    have hpulse := rampPulse_toNat s
    have hnext : (rampNext s).toNat ≤ s.armPulse.toNat := (rampNext_toNat s).trans_le (min_le_right _ _)
    exact ⟨_, _, frame fun _ => rampPulse s, exec_armStep_drive hm hx, exec_armStep_drive hm hx, rfl, rfl,
      forall_mem_frame (P := fun v => v.toNat ≤ s.armPulse.toNat ∧ v.toNat ≤ s.maxPulse.toNat)
        fun _ => ⟨by omega, by omega⟩, hnext, rfl⟩

/-- Settles O50: the magnitudes of the 24-bit setpoints go up to 2^23, and only -2^23 has that one. -/
theorem thresholdCorners : Obligations.ThresholdCorners := by
  refine fun s hm => ⟨fun hthresh => ?large, fun hthresh hsp => ?small⟩
  case large =>
    have hwithin : |s.roll.sp.toInt| ≤ s.armThresh.toNat := by
      obtain ⟨hlower, hupper⟩ := toInt_bounds s.roll.sp
      rw [abs_le]
      omega
    exact ⟨_, exec_armStep_drive hm ((armExit_eq_false_iff s).mpr hwithin), hm⟩
  case small =>
    have habs : |s.roll.sp.toInt| = 2 ^ 23 := by rw [hsp]; decide
    have hover : (s.armThresh.toNat : Int) < |s.roll.sp.toInt| := by omega
    exact ⟨_, exec_armStep_exit hm ((armExit_iff s).mpr hover), rfl⟩

/-! ### The first TICK (R188, R253) -/

/-- R125, R126: with no error stored the derivative is the error itself. -/
theorem pidSum_of_lastErr_zero {s : State} {a : Axis} (h : (axisOf s a).lastErr = 0) :
    pidSum s a = ((axisOf s a).kp.toInt + (axisOf s a).kd.toInt) * pidError s a
      + (axisOf s a).ki.toInt * pidIntegral s a := by
  have hderivative : pidDerivative s a = pidError s a := by rw [pidDerivative, h]; exact sub_zero _
  rw [pidSum, hderivative]
  ring

/-- Settles O51: the exit step leaves every axis at rest. -/
theorem firstTickDerivativeIsTheError : Obligations.FirstTickDerivativeIsTheError := by
  intro s inv hm hover
  refine ⟨{ s with throttle := 0, mode := .armed }, _, exec_armStep_exit hm ((armExit_iff s).mpr hover),
    exec_tick_armed rfl, fun a => ?_⟩
  have haxis : axisOf { s with throttle := 0, mode := .armed } a = axisOf s a := by cases a <;> rfl
  obtain ⟨-, hlast, -⟩ := inv.atRest (by simp [hm]) a
  rw [← haxis] at hlast
  refine ⟨hlast, ?_⟩
  rw [axisOf_emitFrame, axisOf_pidPhase, pidAxisRegs_pidOut_toInt, pidAxisRegs_integ_toInt, pidOutput,
    pidSum_of_lastErr_zero hlast, pidError, haxis]
  rfl

/-! ### Held in Arming (R187) -/

/-- R184: in Arming, with the exit condition false. -/
def HeldInArming (s : State) : Prop := s.mode = .arming ∧ |s.roll.sp.toInt| ≤ s.armThresh.toNat

/-- The registers an arming pass is configured by, all of them locked outside Idle (R45). -/
def SameArmingConfig (s t : State) : Prop :=
  t.armThresh = s.armThresh ∧ t.armPulse = s.armPulse ∧ t.armRampStep = s.armRampStep

/-- In Arming a store reaches THROTTLE and the angles only, of which the exit condition reads SP_ROLL. -/
theorem heldInArming_storeReg {s : State} (hs : HeldInArming s) {r : Reg} (hr : Writable r s.mode) {w : Word}
    (hq : keepsLinkQuiet s.armThresh.toNat (.bus (.write (offsetOf r) w))) :
    HeldInArming (storeReg r w s) ∧ SameArmingConfig s (storeReg r w s) := by
  cases r with
  | throttle => exact ⟨hs, rfl, rfl, rfl⟩
  | meas a => cases a <;> exact ⟨hs, rfl, rfl, rfl⟩
  | sp a =>
    cases a with
    | roll =>
      have hsp : (storeReg (.sp .roll) w s).roll.sp.toInt = sextN 24 (w.toNat % 2 ^ 24) :=
        (storeReg_angle_toInt .roll w s).1
      exact ⟨⟨hs.1, hsp ▸ hq.2 w rfl⟩, rfl, rfl, rfl⟩
    | pitch | yaw => exact ⟨hs, rfl, rfl, rfl⟩
  | _ => simp [Writable, accessOf, hs.1] at hr

theorem heldInArming_of_effect {s t : State} {act : HostAction} (h : Effect s act t) (hs : HeldInArming s)
    (hq : keepsLinkQuiet s.armThresh.toNat act) : HeldInArming t ∧ SameArmingConfig s t := by
  cases h with
  | reset hact => exact nomatch hq.1.symm.trans hact
  | tick hm | armBegin hm => exact nomatch hs.1.symm.trans hm
  | armExit _ hx => exact absurd hs.2 (not_le.mpr ((armExit_iff s).mp hx))
  | store r w hr => exact heldInArming_storeReg hs hr hq
  | _ => exact ⟨hs, rfl, rfl, rfl⟩

/-- Settles O59, by the effect of the action. -/
theorem armingIsKeptByEveryQuietAction : Obligations.ArmingIsKeptByEveryQuietAction := by
  intro s t act rest hp h hq hm hsp
  obtain ⟨⟨hmode, hwithin⟩, hthresh, -, -⟩ := heldInArming_of_effect (effect_of_step hp h) ⟨hm, hsp⟩ hq
  exact ⟨hmode, hwithin, hthresh⟩

/-! ### Arming passes (R185, R187) -/

/-- In Arming only ARM_STEP moves the ramp or the port. -/
theorem ramp_events_of_effect {s t : State} {act : HostAction} (h : Effect s act t) (hm : s.mode = .arming)
    (hreset : isReset act = false) (hne : act ≠ issue .armStep) : t.ramp = s.ramp ∧ t.events = s.events := by
  cases h with
  | reset hact => exact nomatch hreset.symm.trans hact
  | tick h | armBegin h => exact nomatch hm.symm.trans h
  | armDrive => exact absurd rfl hne
  | store r w _ => exact ⟨by cases r <;> simp [storeReg], storeReg_events r w s⟩
  | _ => exact ⟨rfl, rfl⟩

/-- `k` arming passes lead from `s` to `t`, whatever else the host does on the way: the ramp has climbed by `k`
increments and the port grown by `k` frames. -/
structure ArmingPasses (k : Nat) (s t : State) : Prop where
  held : HeldInArming t
  config : SameArmingConfig s t
  ramp : t.ramp.toNat = min (s.ramp.toNat + k * s.armRampStep.toNat) s.armPulse.toNat
  events : t.events.length = s.events.length + 4 * k

theorem ArmingPasses.refl {s : State} (hs : HeldInArming s) (hramp : s.ramp.toNat ≤ s.armPulse.toNat) :
    ArmingPasses 0 s s :=
  ⟨hs, ⟨rfl, rfl, rfl⟩, by omega, rfl⟩

theorem ArmingPasses.trans {j k : Nat} {s t u : State} (h : ArmingPasses j s t) (h' : ArmingPasses k t u) :
    ArmingPasses (j + k) s u := by
  obtain ⟨-, ⟨hthresh, hpulse, hstep⟩, hramp, hevents⟩ := h
  obtain ⟨hheld, ⟨hthresh', hpulse', hstep'⟩, hramp', hevents'⟩ := h'
  rw [hpulse, hstep, hramp] at hramp'
  refine ⟨hheld, ⟨hthresh'.trans hthresh, hpulse'.trans hpulse, hstep'.trans hstep⟩, ?_, by omega⟩
  rw [hramp', add_mul]
  omega

/-- R226, R264: every step answers a next state. Two steps agree only where both do, and a step agrees with itself. -/
theorem exists_next_of_step (s : State) : ∃ t, step s = .next t := by
  obtain ⟨t, -, ht, -, -⟩ := forgets_forgetErrors.step_agree (s := s) rfl
  exact ⟨t, ht⟩

theorem step_armStep_held {s : State} {rest : List HostAction} (hs : HeldInArming s)
    (hp : s.pending = issue .armStep :: rest) : step s = .next (rampOutputStep { s with pending := rest }) :=
  (stepRunsTheDecodedCommand s _ .armStep rest hp (decode_encode .armStep) rfl).trans
    (exec_armStep_drive hs.1 ((armExit_eq_false_iff s).mpr hs.2))

/-- A quiet action is one arming pass or none. -/
theorem armingPasses_of_step {s t : State} {act : HostAction} {rest : List HostAction}
    (hp : s.pending = act :: rest) (h : step s = .next t) (hs : HeldInArming s)
    (hramp : s.ramp.toNat ≤ s.armPulse.toNat) (hq : keepsLinkQuiet s.armThresh.toNat act) :
    ArmingPasses (if act == issue .armStep then 1 else 0) s t := by
  obtain ⟨hheld, hconfig⟩ := heldInArming_of_effect (effect_of_step hp h) hs hq
  by_cases hact : act = issue .armStep
  · subst hact
    obtain rfl : rampOutputStep { s with pending := rest } = t := by simpa [step_armStep_held hs hp] using h
    rw [if_pos (beq_self_eq_true _)]
    refine ⟨hheld, hconfig, ?_, List.length_append⟩
    rw [one_mul]
    exact rampNext_toNat s
  · obtain ⟨hramp', hevents⟩ := ramp_events_of_effect (effect_of_step hp h) hs.1 hq.1 hact
    rw [if_neg (by simpa using hact)]
    exact ⟨hheld, hconfig, by rw [hramp']; simpa using hramp, by rw [hevents]; rfl⟩

/-- A run of quiet actions is as many arming passes as there are ARM_STEPs among them. -/
theorem run_quiet_actions {s : State} {acts rest : List HostAction} (hs : HeldInArming s)
    (hramp : s.ramp.toNat ≤ s.armPulse.toNat) (hp : s.pending = acts ++ rest)
    (hq : ∀ act ∈ acts, keepsLinkQuiet s.armThresh.toNat act) :
    ∃ t, Sys2Proof.core.run acts.length s = .next t ∧ t.pending = rest ∧
      ArmingPasses (acts.count (issue .armStep)) s t := by
  induction acts generalizing s with
  | nil => exact ⟨s, rfl, hp, .refl hs hramp⟩
  | cons act acts ih =>
    obtain ⟨hact, hacts⟩ := List.forall_mem_cons.mp hq
    obtain ⟨t, hstep⟩ := exists_next_of_step s
    have hpass := armingPasses_of_step hp hstep hs hramp hact
    obtain ⟨hthresh, hpulse, -⟩ := hpass.config
    have hramp' : t.ramp.toNat ≤ t.armPulse.toNat := by
      rw [hpass.ramp, hpulse]
      exact min_le_right _ _
    obtain ⟨u, hrun, hrest, hpasses⟩ := ih hpass.held hramp' (step_pending hp hstep) (by rwa [hthresh])
    refine ⟨u, (run_succ_of_step _ hstep acts.length).trans hrun, hrest, ?_⟩
    rw [List.count_cons, add_comm]
    exact hpass.trans hpasses

/-- Settles O49, by the arming passes of the run. -/
theorem armingCanLastForever : Obligations.ArmingCanLastForever := by
  intro s acts rest hm hsp hramp hp hq
  obtain ⟨t, hrun, hrest, hpasses⟩ := run_quiet_actions ⟨hm, hsp⟩ hramp hp hq
  exact ⟨t, hrun, hpasses.held.1, hrest, hpasses.ramp, hpasses.events⟩

end Sys2Proof.Machine

/-! ## Control: NOP, STOP_SET, STOP_CLR and ERR_CLR (spec/43_control.md R200 to R206)

None of the four reads MODE: each has one equation for every mode, and what it leaves alone is one frame lemma for the
latch and one for the error record. -/

namespace Sys2Proof.Machine

/-! ### What each command answers (R200 to R205) -/

theorem exec_nop (s : State) : exec .nop s = .next s := rfl

theorem exec_stopSet (s : State) : exec .stopSet s = .next { s with stop := true } := rfl

theorem exec_stopClr (s : State) : exec .stopClr s = .next { s with stop := false } := rfl

theorem exec_errClr (s : State) : exec .errClr s = .next (clearErrors s) := rfl

theorem memWrite_cmd_encode (i : Instr) (s : State) : memWrite 0x00 (encode i) s = exec i s := by
  rw [memWrite_cmd, execute, decode_encode]

/-- Settles O34: the word 0 is NOP's own. -/
theorem nopLeavesTheWholeState : Obligations.NopLeavesTheWholeState :=
  fun s => ⟨exec_nop s, (memWrite_cmd_encode .nop s).trans (exec_nop s)⟩

/-! ### The stop latch (R202, R203) -/

/-- Setting a set latch, or clearing a clear one, changes nothing. -/
theorem withStop_eq_self {s : State} {b : Bool} (h : s.stop = b) : { s with stop := b } = s := by
  subst h
  rfl

theorem unchangedExcept_withStop (b : Bool) (s : State) : unchangedExcept [.status] s { s with stop := b } :=
  unchangedExcept_of_readReg (fun _ hr => readReg_stop (List.ne_of_not_mem_cons hr)) rfl rfl

/-- R54, R161: a TICK in Armed emits on each channel what it puts in OUT_m. -/
theorem events_of_exec_tick {s t : State} (hm : s.mode = .armed) (h : exec .tick s = .next t) :
    t.events = s.events ++ [⟨0, t.motorA.out⟩, ⟨1, t.motorB.out⟩, ⟨2, t.motorC.out⟩, ⟨3, t.motorD.out⟩] := by
  rw [exec_tick_armed hm] at h
  cases h
  rfl

/-- R27: of the latch's three writers STOP_SET alone does not clear it. -/
theorem stop_stays_set_of_step {s t : State} {act : HostAction} {rest : List HostAction} (hset : s.stop = true)
    (hp : s.pending = act :: rest) (h : step s = .next t) (hclr : act ≠ issue .stopClr)
    (hreset : isReset act = false) : t.stop = true := by
  by_contra hne
  rcases stopLatchWriters s t act rest hp h (hset ▸ hne) with ⟨-, hstop⟩ | ⟨hact, -⟩ | ⟨hact, -⟩
  · exact hne hstop
  · exact hclr hact
  · exact nomatch hreset.symm.trans hact

/-- Settles O35: the TICK after it is the overridden one of R160; only STOP_CLR and reset clear the latch. -/
theorem stopSetSetsTheLatch : Obligations.StopSetSetsTheLatch := by
  refine fun s => ⟨_, exec_stopSet s, rfl, withStop_eq_self, unchangedExcept_withStop true s, rfl, fun hm => ?tick,
    fun _ _ _ _ => stop_stays_set_of_step⟩
  obtain ⟨u, -, htick, -, -, -, hevents, -⟩ := stopOverridesOutputsOnly s hm
  exact ⟨u, htick, hevents⟩

/-- Settles O36: the TICK after it is the one of R160 without the override; a set and a clear overwrite the latch with
its own value. -/
theorem stopClrClearsTheLatch : Obligations.StopClrClearsTheLatch := by
  refine fun s => ⟨_, exec_stopClr s, rfl, withStop_eq_self, unchangedExcept_withStop false s, rfl, fun hm => ?tick,
    fun hclear => ⟨_, exec_stopSet s, ?both⟩⟩
  case tick =>
    obtain ⟨-, u, -, htick, -, hclamped, -, -⟩ := stopOverridesOutputsOnly s hm
    exact ⟨u, htick, hclamped, events_of_exec_tick (s := { s with stop := false }) hm htick⟩
  case both => exact congrArg Host.Outcome.next (withStop_eq_self hclear)

/-! ### The error record (R204) -/

theorem unchangedExcept_clearErrors (s : State) : unchangedExcept [.status, .errInfo] s (clearErrors s) := by
  refine unchangedExcept_of_readReg (fun r hr => ?_) rfl rfl
  simp only [List.mem_cons, List.not_mem_nil, or_false, not_or] at hr
  exact readReg_clearErrors hr.1 hr.2

/-- R25, R204: with no error on record only STOP and MODE are left of the STATUS word. -/
theorem statusWord_clearErrors_toNat (s : State) :
    (statusWord (clearErrors s)).toNat = s.stop.toNat * 2 ^ 2 + (modeCode s.mode).toNat := by
  simp [statusWord_toNat, causeCode]

/-- R225: an error with none on record is recorded as the first. -/
theorem raiseError_records_first {s : State} (h : s.errCause = .none) (cause : ErrorCause) (info : Word) :
    (raiseError cause info s).errCause = cause ∧ (raiseError cause info s).errInfo = info := by
  simp [h]

theorem memWrite_cmd_reserved {w : Word} (h : 256 ≤ w.toNat) (s : State) :
    memWrite 0x00 w s = .next (raiseError .cmdReserved w s) := by
  obtain ⟨-, -, -, -, hreserved, -⟩ := everyWordFallsInItsClass w s
  exact hreserved h

/-- Settles O37: the record is clear field by field; the STATUS word keeps STOP and MODE, which lie below bit 4; a
malformed word is refused by the decoder. -/
theorem errClrClearsTheRecord : Obligations.ErrClrClearsTheRecord := by
  refine fun s => ⟨⟨_, exec_errClr s, rfl, rfl, rfl, rfl, rfl, rfl, rfl, rfl, rfl, unchangedExcept_clearErrors s, ?status,
    raiseError_records_first rfl⟩, memWrite_cmd_reserved (by decide) s, fun _ h => memWrite_cmd_reserved h s⟩
  have hstop := s.stop.toNat_le
  have hmode := (modeCode s.mode).isLt
  rw [memRead_status, statusWord_clearErrors_toNat]
  omega

end Sys2Proof.Machine

/-! ## Exceptions: the error record and its procedure (spec/60_exceptions.md R220 to R230)

Each check of R75 and R102 that can fail has its lemma in the sections on the bus, the decoder and arming; R230's order
says which one fails first. -/

namespace Sys2Proof.Machine

/-! ### Reads (R222) -/

theorem memRead_cmd (s : State) : memRead 0x00 s = 0 := memRead_offsetOf .cmd s

/-- Settles O10: taking the read off the host's list does not change the word, and nothing is readable at the three
kinds of address. -/
theorem readHasNoEffect : Obligations.ReadHasNoEffect := by
  intro s addr rest hp
  constructor
  · have hword : memRead addr { s with pending := rest } = memRead addr s :=
      memRead_host addr s s.events rest s.answers
    rw [step_of_pending hp, perform, hword]
  · rintro (hmisaligned | hreserved | rfl)
    · obtain ⟨hread, -⟩ := misalignedAccess s addr 0 hmisaligned
      exact hread
    · exact memRead_reserved hreserved s
    · exact memRead_cmd s

/-! ### The error procedure (R221, R225) -/

theorem isCmdClass_eq_decide (c : ErrorCause) :
    isCmdClass c = decide (c = .cmdUnknown ∨ c = .cmdReserved ∨ c = .cmdMode) := by
  cases c <;> rfl

theorem isCfgClass_eq_decide (c : ErrorCause) : isCfgClass c = decide (c = .cfgLocked) := by
  cases c <;> rfl

theorem isBusClass_eq_decide (c : ErrorCause) :
    isBusClass c = decide (c = .busMisaligned ∨ c = .busReadonly ∨ c = .busReserved) := by
  cases c <;> rfl

theorem raiseError_keeps_first {s : State} (h : s.errCause ≠ .none) (cause : ErrorCause) (info : Word) :
    (raiseError cause info s).errCause = s.errCause ∧ (raiseError cause info s).errInfo = s.errInfo := by
  simp [h]

/-- Settles O28: the class of the cause by R221; the first error is recorded and a later one is not. -/
theorem errorProcedure : Obligations.ErrorProcedure := by
  intro s c info
  rw [← isCmdClass_eq_decide, ← isCfgClass_eq_decide, ← isBusClass_eq_decide]
  exact ⟨raiseError_errCmd c info s, raiseError_errCfg c info s, raiseError_errBus c info s,
    fun h => raiseError_records_first h c info, fun h => raiseError_keeps_first h c info, rfl⟩

/-- Settles O31, by the effect of the action: an error is one run of the procedure, and of the other effects only
ERR_CLR's and reset's reach the record. -/
theorem anErrorChangesOnlyTheRecord : Obligations.AnErrorChangesOnlyTheRecord := by
  intro s t act rest hp h hclr hreset hrecord
  cases effect_of_step hp h with
  | error addr w cause info hcause => exact ⟨cause, info, hcause, rfl⟩
  | errClr => exact absurd rfl hclr
  | reset hact => exact nomatch hreset.symm.trans hact
  | store r w _ =>
    obtain ⟨-, -, -, hcmd, hcfg, hbus, hcause, hinfo⟩ := storeReg_keeps r w { s with pending := rest }
    exact absurd (by rw [hcmd, hcfg, hbus, hcause, hinfo]) hrecord
  | _ => exact absurd rfl hrecord

/-! ### The order of the checks (R230) -/

theorem memWrite_noSlot {addr : Addr} (ha : addr.toNat % 4 = 0) (h : slotAt addr = none) (w : Word) (s : State) :
    memWrite addr w s = .next (raiseError .busReserved (BitVec.ofNat 32 addr.toNat) s) :=
  memWrite_reserved ((slotAt_eq_none_iff addr ((aligned_iff addr).mpr ha)).mp h) w s

/-- Settles O29: a register stands at its own offset, which is aligned, so its access decides; a word written to CMD is
decoded before its command looks at MODE. -/
theorem errorPriority : Obligations.ErrorPriority := by
  intro s addr w
  obtain ⟨-, -, -, -, hreservedBits, hunknown⟩ := everyWordFallsInItsClass w s
  refine ⟨fun ha => ?misaligned, fun ha h => memWrite_noSlot ha h w s, fun r hr hacc => ?readOnly,
    fun r hr hacc hm => ?locked, hreservedBits, hunknown, fun i h => ?mode⟩
  case misaligned =>
    obtain ⟨-, hwrite, -⟩ := misalignedAccess s addr w ha
    exact hwrite
  case readOnly =>
    obtain rfl := offsetOf_of_slotAt addr r hr
    exact memWrite_readOnly hacc w s
  case locked =>
    obtain rfl := offsetOf_of_slotAt addr r hr
    exact memWrite_locked hacc hm w
  case mode => rw [memWrite_cmd_encode, exec_refused h]

end Sys2Proof.Machine

/-! ## Reset and hazards: what reset leaves, and that a run goes on (spec/70_reset_and_hazards.md R250, R251, R264)

What a register reads right after reset is settled once, at `State.reset`; reset in any state reads the same, since no
read form looks at the port or at the host's side. -/

namespace Sys2Proof.Machine

/-! ### Runs (R264) -/

/-- Settles O33, by induction on the number of steps. -/
theorem aRunDoesNotEnd : Obligations.ARunDoesNotEnd := by
  intro k
  induction k with
  | zero => exact fun s => ⟨s, rfl⟩
  | succ k ih =>
    intro s
    obtain ⟨t, hstep⟩ := exists_next_of_step s
    obtain ⟨u, hrun⟩ := ih t
    exact ⟨u, (run_succ_of_step Sys2Proof.core hstep k).trans hrun⟩

/-! ### Reset values (R250) -/

/-- R23: the reset column holds 0 for every register but three. -/
theorem readReg_reset_eq_zero {r : Reg} (hr : r ∉ [.iscale, .pscale, .mixSign]) : readReg r State.reset = 0 := by
  cases r with
  | iscale | pscale | mixSign => simp at hr
  | sp a | meas a | kp a | ki a | kd a | maxi a | integ a | lastErr a | pidOut a => cases a <;> rfl
  | offset m | out m => cases m <;> rfl
  | _ => rfl

theorem memRead_noSlot {addr : Addr} (h : slotAt addr = none) (s : State) : memRead addr s = 0 := by
  simp [memRead, h]

theorem memRead_reset (addr : Addr) :
    memRead addr State.reset =
      if addr = 0x60 then 1 else if addr = 0x64 then 1 else if addr = 0x6C then 0x7A8 else 0 := by
  split_ifs with hiscale hpscale hmixSign
  · rw [hiscale]; rfl
  · rw [hpscale]; rfl
  · rw [hmixSign]; rfl
  · cases hslot : slotAt addr with
    | none => exact memRead_noSlot hslot _
    | some r =>
      obtain rfl := offsetOf_of_slotAt addr r hslot
      rw [memRead_offsetOf]
      refine readReg_reset_eq_zero fun hr => ?_
      simp only [List.mem_cons, List.not_mem_nil, or_false] at hr
      rcases hr with rfl | rfl | rfl
      exacts [hiscale rfl, hpscale rfl, hmixSign rfl]

theorem memRead_resetBlock (addr : Addr) (s : State) : memRead addr (resetBlock s) = memRead addr State.reset :=
  memRead_host addr State.reset s.events s.pending s.answers

/-- Settles O26: both actions answer `resetBlock s`. -/
theorem resetValues : Obligations.ResetValues := fun s =>
  ⟨resetBlock s, rfl, rfl, resetBlock_mode s, resetBlock_events s, fun addr =>
    (memRead_resetBlock addr s).trans (memRead_reset addr)⟩

/-- Settles O27: reset does not look at the transaction it interrupts (R251). -/
theorem resetWinsOverATransaction : Obligations.ResetWinsOverATransaction := fun s _ =>
  ⟨rfl, resetBlock s, rfl, resetBlock_answers s, resetBlock_events s, fun addr => memRead_resetBlock addr s⟩

/-! ### The invariant at reset -/

/-- Settles O57: the divisors are 1, every other register in the invariant is 0, and the port is empty. -/
theorem invariantAtReset : Obligations.InvariantAtReset :=
  show Inv State.reset from
  { iscalePositive := by decide
    pscalePositive := by decide
    integral := fun a => by cases a <;> decide
    lastErr := fun a => by cases a <;> decide
    atRest := fun _ a => by cases a <;> decide
    ramp := le_refl _
    rampIdle := fun _ => rfl
    infoClear := fun _ => rfl
    classClear := fun _ => ⟨rfl, rfl, rfl⟩
    classSet := ⟨nofun, nofun, nofun⟩
    frames := trivial
    readBack := .inl fun m => by cases m <;> rfl }

end Sys2Proof.Machine
